-- ==== Sys2Proof/Word.lean ====
section
/-! DEFINITION. The unit's word and byte types (spec 00_scope.md R8, R10). -/

namespace Sys2Proof

/-- A 32-bit unsigned word (R8 "word width", R10). Addition on it is mod 2^32 (R11). -/
abbrev Word := BitVec 32

/-- An 8-bit byte (R12). -/
abbrev Byte := BitVec 8

/-- `n` words, indexed from 0: a register array such as `KEY[0..7]`. -/
abbrev Words (n : Nat) := Vector Word n

end Sys2Proof
end

