-- ==== Sys2Proof/Syntax.lean ====
section
/-! DEFINITION. The instructions: the rows of spec/opcode_table.json (30_encoding.md R70 to R74). -/

namespace Sys2Proof

/-- One constructor per row of the opcode table. The six commands have no operand field: their operands are
fixed registers (R72, R73). The two bus transactions carry a word index and, for a write, its data (R71). -/
inductive Instr where
  /-- NOP, command word 0x00000000 (R106). -/
  | nop
  /-- INIT, command word 0x00000001 (R103). -/
  | init
  /-- BLOCK, command word 0x00000002 (R150). -/
  | block
  /-- HASH, command word 0x00000003 (R136). -/
  | hash
  /-- QR, command word 0x00000004 (R135). -/
  | qr
  /-- CLEAR, command word 0x00000005 (R105). -/
  | clear
  /-- RD: a host read of the register word `waddr` (R53, R178). -/
  | rd (waddr : BitVec 7)
  /-- WR: a host write of `data` to the register word `waddr` (R54, R177). -/
  | wr (waddr : BitVec 7) (data : Word)
deriving DecidableEq, Repr

end Sys2Proof
end

