-- ==== Sys2Proof/WellFormed.lean ====
section
/-! DEFINITION. What the bus can express (20_memory.md R50, R52, R58). The widths of `Instr`'s operands make
every instruction expressible; the checks are on an access as a host language may name it, which R52 says
must be refused before it reaches the unit when the bus has no form for it. -/

namespace Sys2Proof

/-- The ranges of R50 and R52, said of an instruction: its byte offset lies in the 512-byte register space and
its data is one 32-bit word. It holds of every instruction, by the widths of the operands (R76: all 256 headers
are valid). -/
def Instr.wellFormed : Instr → Bool
  | .nop => true
  | .init => true
  | .block => true
  | .hash => true
  | .qr => true
  | .clear => true
  | .rd a => decide (4 * a.toNat ≤ 0x1FC)
  | .wr a d => decide (4 * a.toNat ≤ 0x1FC) && decide (d.toNat < 2 ^ 32)

theorem Instr.wellFormed_all (i : Instr) : i.wellFormed = true := by
  cases i with
  | rd a => have := a.isLt; simp [Instr.wellFormed]; omega
  | wr a d => have := a.isLt; simp [Instr.wellFormed]; omega
  | _ => rfl

/-- An access as a host language can write it: an address of the platform, a size in bytes and a number. -/
inductive HostAccess where
  | read (addr size : Nat)
  | write (addr size value : Nat)
deriving DecidableEq, Repr

/-- Why a host access is refused before it reaches the unit (R52; 93 S11). -/
inductive AccessError where
  /-- The address is outside the unit's 512 bytes at `BASE` (R50, R60). -/
  | outsideUnit
  /-- The byte offset is not a multiple of 4 (R52, R58). -/
  | misaligned
  /-- The size is not 4 bytes (R52). -/
  | wrongSize
  /-- The value is no 32-bit word (R10, R52). -/
  | valueTooWide
deriving DecidableEq, Repr

/-- The word index of an access at `addr` of `size` bytes, for a unit placed at `base` (R52, R60; `BASE` is the
platform's parameter, D33, log 14). -/
def HostAccess.wordIndex (base addr size : Nat) : Except AccessError (BitVec 7) :=
  if addr < base ∨ base + 0x200 ≤ addr then .error .outsideUnit
  else if size ≠ 4 then .error .wrongSize
  else if (addr - base) % 4 ≠ 0 then .error .misaligned
  else .ok (BitVec.ofNat 7 ((addr - base) / 4))

/-- The check of R52: the bus transaction an access stands for, or why it is refused. -/
def HostAccess.check (base : Nat) : HostAccess → Except AccessError Instr
  | .read addr size =>
    match HostAccess.wordIndex base addr size with
    | .error e => .error e
    | .ok a => .ok (.rd a)
  | .write addr size value =>
    match HostAccess.wordIndex base addr size with
    | .error e => .error e
    | .ok a => if value < 2 ^ 32 then .ok (.wr a (BitVec.ofNat 32 value)) else .error .valueTooWide

end Sys2Proof
end

