-- ==== Sys2Proof/Decode.lean ====
section
/-! DEFINITION. The two encoded forms (30_encoding.md R70 to R77): decoding, total on any bytes, and the encoder
written from the same tables. The byte helpers of 00_scope.md R12 stand here because decoding uses them. -/

namespace Sys2Proof

/-! ### Bytes of a word (R12) -/

/-- `byte(w, j) = w[8j+7 : 8j]` (R12). -/
def byteOf (w : Word) (j : Nat) : Byte := w.extractLsb' (8 * j) 8

/-- `LE32(b0, b1, b2, b3)` (R12). -/
def le32 (b0 b1 b2 b3 : Byte) : Word :=
  b0.setWidth 32 ||| (b1.setWidth 32 <<< 8) ||| (b2.setWidth 32 <<< 16) ||| (b3.setWidth 32 <<< 24)

/-- The four bytes of a word, least significant first. -/
def wordBytes (w : Word) : List Byte := [byteOf w 0, byteOf w 1, byteOf w 2, byteOf w 3]

/-! ### Decoding -/

/-- The two kinds of input (R70). They arrive by different ways (the bus; an accepted write to `CMD`), so no
mode and no bit of one is ever read as the other. -/
inductive Format where
  | cmd32
  | bus
deriving DecidableEq, Repr

/-- Why a decode gives no instruction. -/
inductive DecodeError where
  /-- `RSV != 0` or `OP` in 0x6..0xF (R75): the unit completes such a word with code 6. -/
  | illegalCommand (v : Word)
  /-- Fewer bytes than the format's fixed length (R77). -/
  | truncated (f : Format)
deriving DecidableEq, Repr

/-- The decode function on command words (R76), total. -/
def decodeCmd (v : Word) : Except DecodeError Instr :=
  if v.extractLsb' 4 28 ≠ 0 then .error (.illegalCommand v)
  else
    match (v.extractLsb' 0 4).toNat with
    | 0 => .ok .nop
    | 1 => .ok .init
    | 2 => .ok .block
    | 3 => .ok .hash
    | 4 => .ok .qr
    | 5 => .ok .clear
    | _ => .error (.illegalCommand v)

/-- The decode function on bus transactions (R71, R76), total: bit 7 of the header is WE, bits 6:0 are WADDR. A
read does not look at the data lines. -/
def decodeBus (header : Byte) (data : Word) : Instr :=
  if header.extractLsb' 7 1 = 1#1 then .wr (header.extractLsb' 0 7) data
  else .rd (header.extractLsb' 0 7)

/-- Decoding of a byte stream in a format, giving the instruction and the rest. The bytes of a word stand least
significant first (DESIGN CHOICE, log 15: the bus carries whole words and the spec serialises none). -/
def decode (f : Format) (bytes : List Byte) : Except DecodeError (Instr × List Byte) :=
  match f, bytes with
  | .cmd32, b0 :: b1 :: b2 :: b3 :: rest =>
    match decodeCmd (le32 b0 b1 b2 b3) with
    | .ok i => .ok (i, rest)
    | .error e => .error e
  | .cmd32, _ => .error (.truncated .cmd32)
  | .bus, [] => .error (.truncated .bus)
  | .bus, h :: rest =>
    match decodeBus h 0 with
    | .wr a _ =>
      match rest with
      | d0 :: d1 :: d2 :: d3 :: rest' => .ok (.wr a (le32 d0 d1 d2 d3), rest')
      | _ => .error (.truncated .bus)
    | i => .ok (i, rest)

/-! ### Encoding -/

/-- The format of an instruction (R70). -/
def Instr.format : Instr → Format
  | .nop => .cmd32
  | .init => .cmd32
  | .block => .cmd32
  | .hash => .cmd32
  | .qr => .cmd32
  | .clear => .cmd32
  | .rd _ => .bus
  | .wr _ _ => .bus

/-- The header of a bus transaction (R71): `we` in bit 7, the word index in bits 6:0. -/
def busHeader (we : BitVec 1) (waddr : BitVec 7) : Byte := we ++ waddr

/-- The bytes of an instruction, from the tables of R71 and R74. -/
def encode : Instr → List Byte
  | .nop => wordBytes 0x00000000
  | .init => wordBytes 0x00000001
  | .block => wordBytes 0x00000002
  | .hash => wordBytes 0x00000003
  | .qr => wordBytes 0x00000004
  | .clear => wordBytes 0x00000005
  | .rd a => [busHeader 0 a]
  | .wr a d => busHeader 1 a :: wordBytes d

/-! ### The opcode table's words -/

/-- `n` bytes of a number, least significant first. -/
def natBytes : Nat → Nat → List Byte
  | 0, _ => []
  | n + 1, w => BitVec.ofNat 8 w :: natBytes n (w / 256)

/-- The format of a table row of `nbits` bits: CMD32 rows have 32; BUS rows have the 8 of the header, or 40 with
the data word of a write (R77). -/
def tableFormat (nbits : Nat) : Option Format :=
  if nbits = 32 then some .cmd32
  else if nbits = 8 ∨ nbits = 40 then some .bus
  else none

/-- The instruction read from a table row's bits: `w` numbered from the least significant bit of the first word,
the bits at and above `nbits` zero. -/
def decodeTableWord (nbits w : Nat) : Option Instr :=
  match tableFormat nbits with
  | none => none
  | some .cmd32 => (decode .cmd32 (natBytes 4 (w % 2 ^ nbits))).toOption.map Prod.fst
  | some .bus => (decode .bus (natBytes 5 (w % 2 ^ nbits))).toOption.map Prod.fst

end Sys2Proof
end

