-- ==== Sys2Proof/Machine/Rounds.lean ====
section
/-! DEFINITION. The pure word functions of the datapath: rotation and serialisation (00_scope.md R11, R12; 20_memory.md
R56), the quarter-round unit, the rounds and the core (41_core_transform.md R120 to R132). -/

namespace Sys2Proof.Machine

/-- `rotl(v, n)` for 0 < n < 32 (R11). -/
def rotl (v : Word) (n : Nat) : Word := (v <<< n) ||| (v >>> (32 - n))

/-- Byte `k` of a byte sequence held little-endian in words: `byte(W[k div 4], k mod 4)` (R56). -/
def byteAt {n : Nat} (W : Words n) (k : Nat) : Byte := byteOf (W[k / 4]?.getD 0) (k % 4)

/-- `ser(W)`: the 64 bytes of 16 words (R12). -/
def ser (W : Words 16) : List Byte := (List.range 64).map (byteAt W)

/-- Four words (a, b, c, d), the operand of the quarter-round unit. -/
structure Quad where
  a : Word
  b : Word
  c : Word
  d : Word
deriving DecidableEq, Repr

/-- The quarter-round (R121): each update uses the words as the previous updates left them. -/
def quarterround (q : Quad) : Quad :=
  let b := q.b ^^^ rotl (q.a + q.d) 7
  let c := q.c ^^^ rotl (b + q.a) 9
  let d := q.d ^^^ rotl (c + b) 13
  let a := q.a ^^^ rotl (d + c) 18
  { a := a, b := b, c := c, d := d }

/-- The column round (R123): groups (0,4,8,12), (5,9,13,1), (10,14,2,6), (15,3,7,11). -/
def columnround (x : Words 16) : Words 16 :=
  let p := quarterround { a := x[0], b := x[4], c := x[8], d := x[12] }
  let q := quarterround { a := x[5], b := x[9], c := x[13], d := x[1] }
  let r := quarterround { a := x[10], b := x[14], c := x[2], d := x[6] }
  let t := quarterround { a := x[15], b := x[3], c := x[7], d := x[11] }
  #v[p.a, q.d, r.c, t.b,
     p.b, q.a, r.d, t.c,
     p.c, q.b, r.a, t.d,
     p.d, q.c, r.b, t.a]

/-- The row round (R124): groups (0,1,2,3), (5,6,7,4), (10,11,8,9), (15,12,13,14). -/
def rowround (x : Words 16) : Words 16 :=
  let p := quarterround { a := x[0], b := x[1], c := x[2], d := x[3] }
  let q := quarterround { a := x[5], b := x[6], c := x[7], d := x[4] }
  let r := quarterround { a := x[10], b := x[11], c := x[8], d := x[9] }
  let t := quarterround { a := x[15], b := x[12], c := x[13], d := x[14] }
  #v[p.a, p.b, p.c, p.d,
     q.d, q.a, q.b, q.c,
     r.c, r.d, r.a, r.b,
     t.b, t.c, t.d, t.a]

/-- A group of four positions of the state, the operand of one quarter-round within a round (R123, R124). -/
structure PosGroup where
  i : Fin 16
  j : Fin 16
  k : Fin 16
  l : Fin 16
deriving DecidableEq, Repr

/-- The quarter-round on one group, in place (R125: a lane of a round). -/
def applyGroup (x : Words 16) (g : PosGroup) : Words 16 :=
  let q := quarterround { a := x[g.i], b := x[g.j], c := x[g.k], d := x[g.l] }
  (((x.set g.i q.a).set g.j q.b).set g.k q.c).set g.l q.d

/-- The groups of the column round (R123). -/
def columnGroups : List PosGroup :=
  [{ i := 0, j := 4, k := 8, l := 12 }, { i := 5, j := 9, k := 13, l := 1 },
   { i := 10, j := 14, k := 2, l := 6 }, { i := 15, j := 3, k := 7, l := 11 }]

/-- The groups of the row round (R124). -/
def rowGroups : List PosGroup :=
  [{ i := 0, j := 1, k := 2, l := 3 }, { i := 5, j := 6, k := 7, l := 4 },
   { i := 10, j := 11, k := 8, l := 9 }, { i := 15, j := 12, k := 13, l := 14 }]

/-- `transpose(x)[4r + c] = x[4c + r]` (R126). -/
def transpose (x : Words 16) : Words 16 :=
  #v[x[0], x[4], x[8], x[12], x[1], x[5], x[9], x[13], x[2], x[6], x[10], x[14], x[3], x[7], x[11], x[15]]

/-- A double round: a column round, then a row round (R127). -/
def doubleround (x : Words 16) : Words 16 := rowround (columnround x)

/-- `n` double rounds. -/
def doublerounds : Nat → Words 16 → Words 16
  | 0, x => x
  | n + 1, x => doublerounds n (doubleround x)

/-- Word-by-word addition mod 2^32, the feed-forward (R129). -/
def addWords (x y : Words 16) : Words 16 := Vector.ofFn fun i => x[i] + y[i]

/-- `core(S)` (R129), the 16 words of one keystream block: ten double rounds on a working copy, then the feed-forward. -/
def coreBlock (s : Words 16) : Words 16 := addWords (doublerounds 10 s) s

end Sys2Proof.Machine
end

