-- ==== Sys2Proof/Config.lean ====
section
/-! DEFINITION. What one build of the unit fixes (spec 00_scope.md R9) and the free values:
constants with no body, of which nothing can be proved (assumption log 3, 4, 7). -/

namespace Sys2Proof

/-- Default of the parameter `SIGMA[0..3]` (R9, R100): "expand 32-byte k" as four little-endian words.
PRESUMED: the spec marks the values as general knowledge (log 1). -/
def Config.sigma : Words 4 := #v[0x61707865, 0x3320646E, 0x79622D32, 0x6B206574]

/-- Default of the parameter `TAU[0..3]` (R9, R100): "expand 16-byte k" as four little-endian words.
PRESUMED: the spec marks the values as general knowledge (log 1). -/
def Config.tau : Words 4 := #v[0x61707865, 0x3120646E, 0x79622D36, 0x6B206574]

/-- Free value: what the `n`-th draw gives a host read made while BUSY = 1 (R178; 93 S1; log 4). -/
opaque Config.busyRead : Nat → Word

/-- Free value: the working register `X` after a HASH or BLOCK (R25; 93 S2; log 3). -/
opaque Config.hiddenX : Nat → Words 16

/-- Free value: the round index `RIDX` after a HASH or BLOCK, within its range 0..20 (R26; 93 S2; log 3). -/
opaque Config.hiddenRIDX : Nat → Fin 21

/-- Free value: `WERR` when a dropped host write and the completion of CLEAR fall into one clock cycle:
R181 (c) says WERR is set, R105 says it is cleared (log 7). -/
opaque Config.clearRaceWERR : Nat → Bool

end Sys2Proof
end

