-- ==== Sys2Proof/Machine/State.lean ====
section
/-! DEFINITION. The unit's state as plain data (10_state.md R20 to R45), what the outside world brings
(20_memory.md R51), the stops, and the state after reset (R44). Field names are the spec's register names. -/

namespace Sys2Proof.Machine

/-- A bus transaction as it stands on the pins (R51, R71): the 8-bit header `{bus_we, bus_addr}` and `bus_wdata`. -/
structure Txn where
  header : Byte
  data : Word
deriving DecidableEq, Repr

/-- The pins at one rising edge of `clk` (R51), and whether the latency `LAT_CMD` of a pending command ends at this
edge (R9, R176). -/
structure Edge where
  /-- `rst_n`: false = reset (R200). -/
  rstN : Bool
  /-- `some t` when `bus_sel = 1`. -/
  bus : Option Txn
  /-- The pending command, if any, completes at this edge. -/
  done : Bool
deriving DecidableEq, Repr

/-- What the outside world does to the unit. -/
inductive Event where
  /-- One rising clock edge. -/
  | edge (e : Edge)
  /-- A transaction of a second bus master, outside the spec (R188). -/
  | secondMaster (t : Txn)
  /-- `clk` stops or power is removed (R189; 93 S12). -/
  | powerLoss
deriving DecidableEq, Repr

/-- The constant sets the unit holds, fixed at build time (R100). -/
structure ConstROM where
  sigma : Words 4
  tau : Words 4
deriving DecidableEq, Repr

/-- Everything the spec gives the unit, and three fields of the model's own (`inputs`, `reads`, `draws`). -/
structure State where
  /-- The constant sets SIGMA and TAU (R100, R9; log 1). -/
  ROM : ConstROM
  /-- The cipher state `S[0..15]` (R20); `S[8]`, `S[9]` are the block counter (R22). -/
  S : Words 16
  /-- The working register `X[0..15]`, hidden (R25). -/
  X : Words 16
  /-- The round index, 0..20, hidden (R26). -/
  RIDX : Fin 21
  /-- The pending command word (R27). -/
  PEND : Word
  /-- The key words, write-only (R28). -/
  KEY : Words 8
  /-- The nonce words (R29). -/
  NONCE : Words 2
  /-- The data-in words (R30). -/
  DIN : Words 16
  /-- The data-out words (R31). -/
  DOUT : Words 16
  /-- The quarter-round operands (R32). -/
  QR : Words 4
  /-- `CTRL.KLEN`, the key length in bytes (R33). -/
  KLEN : BitVec 6
  /-- `CTRL.NLEN`, the nonce length in bytes (R33). -/
  NLEN : BitVec 4
  /-- `DLEN.LEN`, the number of valid bytes in DIN (R34). -/
  LEN : BitVec 7
  /-- `STATUS.BUSY` (R35, R174). -/
  BUSY : Bool
  /-- `STATUS.VALID` (R36). -/
  VALID : Bool
  /-- `STATUS.EXH` (R37). -/
  EXH : Bool
  /-- `STATUS.WERR` (R38). -/
  WERR : Bool
  /-- `STATUS.KSEL` (R39): true = TAU. -/
  KSEL : Bool
  /-- `STATUS.ERR` (R40, R171). -/
  ERR : BitVec 4
  /-- The model's own: what the outside world will do, oldest first (log 5). -/
  inputs : List Event
  /-- The model's own: the values the host's reads returned, oldest first (R211; log 8). -/
  reads : List Word
  /-- The model's own: how many free values have been drawn (log 4). -/
  draws : Nat
deriving DecidableEq, Repr

/-- Why the model stops without a claim. No instruction raises one. -/
inductive Fault where
  /-- Raised by `step` on the event `powerLoss`: `clk` stopped or power was removed, after which the spec promises
  nothing (R189; 93 S12 "stuck"). Safe: the model makes no claim past that point. -/
  | clockOrPowerLost
deriving DecidableEq, Repr

/-- What the model rejects as outside the spec. -/
inductive Refusal where
  /-- Raised by `exec` for an instruction without a meaning. Safe. -/
  | notModelled (mnemonic : String)
  /-- Raised by `step` on the event `secondMaster`: two masters on one unit are outside the spec and a model
  refuses them (R188; 93 U3). Safe. -/
  | secondBusMaster
deriving DecidableEq, Repr

/-- The state after reset (R44, R201). `X`, `RIDX` and `PEND` have no reset value in the spec: zero is the model's
DESIGN CHOICE (log 2). The constant sets are the defaults of R9, PRESUMED (log 1). -/
def State.reset : State where
  ROM := { sigma := Config.sigma, tau := Config.tau }
  S := Vector.replicate 16 0
  X := Vector.replicate 16 0
  RIDX := 0
  PEND := 0
  KEY := Vector.replicate 8 0
  NONCE := Vector.replicate 2 0
  DIN := Vector.replicate 16 0
  DOUT := Vector.replicate 16 0
  QR := Vector.replicate 4 0
  KLEN := 32
  NLEN := 8
  LEN := 64
  BUSY := false
  VALID := false
  EXH := false
  WERR := false
  KSEL := false
  ERR := 0
  inputs := []
  reads := []
  draws := 0

end Sys2Proof.Machine
end

