-- ==== Sys2Proof/Machine/Ops.lean ====
section
/-! DEFINITION. The shared operations over the registers: completing a command and reporting an error (60_exceptions.md
R171 to R176), issuing one (R175), the host's view of a read (70_reset_and_hazards.md R211), the round sequencer
(41_core_transform.md R131), the state builder's layout (10_state.md R21), the XOR datapath and the counter
(42_keystream.md R151 to R153). -/

namespace Sys2Proof.Machine

/-! ### Result codes and completion -/

/-- The result codes of R171. -/
inductive ErrorCode where
  | invalidKeyLength
  | invalidNonceLength
  | notInitialised
  | badDataLength
  | counterExhausted
  | illegalCommand
deriving DecidableEq, Repr

/-- The number `STATUS.ERR` takes (R171). -/
def ErrorCode.code : ErrorCode → BitVec 4
  | .invalidKeyLength => 1
  | .invalidNonceLength => 2
  | .notInitialised => 3
  | .badDataLength => 4
  | .counterExhausted => 5
  | .illegalCommand => 6

/-- The end of every completion step (R176): the result code goes to `STATUS.ERR` and the engine is idle. -/
def finish (code : BitVec 4) (s : State) : State := { s with ERR := code, BUSY := false }

/-- `complete(0)` (R14, R171). -/
def complete (s : State) : State := finish 0 s

/-- Taking an error, `raise Error(c)` (R14, R170, R173): the unit's only exception. Nothing is saved, no mode
changes and nothing jumps; `STATUS.ERR` takes the code and the command ends. There is no return from it (R182). -/
def raiseError (e : ErrorCode) (s : State) : State := finish e.code s

/-- `start_command(v)` (R175): the issue step, `PEND <- v` and `BUSY <- 1`. -/
def startCommand (v : Word) (s : State) : State := { s with PEND := v, BUSY := true }

/-- A host write while BUSY = 1 (R177): dropped, `WERR <- 1`. -/
def dropWrite (s : State) : State := { s with WERR := true }

/-! ### What the host sees -/

/-- A read returns `v` on `bus_rdata` (R51, R211). -/
def observe (v : Word) (s : State) : State := { s with reads := s.reads ++ [v] }

/-- One free value has been drawn (log 4). -/
def drawn (s : State) : State := { s with draws := s.draws + 1 }

/-! ### The round sequencer (R131) -/

/-- `seq_start`: `X <- S; RIDX <- 0`. -/
def seqStart (s : State) : State := { s with X := s.S, RIDX := 0 }

/-- One pass of `seq_round`'s body, while `RIDX < 20`: even rounds are column rounds, odd rounds row rounds (R128). -/
def seqRound (s : State) : State :=
  if s.RIDX.val < 20 then
    { s with
      X := if s.RIDX.val % 2 = 0 then columnround s.X else rowround s.X
      RIDX := Fin.ofNat 21 (s.RIDX.val + 1) }
  else s

/-- `n` passes of the loop. -/
def seqRounds : Nat → State → State
  | 0, s => s
  | n + 1, s => seqRounds n (seqRound s)

/-- `seq_start` and the whole loop: 20 passes end it, since each adds 1 to `RIDX`. -/
def runSequencer (s : State) : State := seqRounds 20 (seqStart s)

/-- `seq_final`: `Z[i] = X[i] + S[i]`. -/
def seqFinal (s : State) : Words 16 := addWords s.X s.S

/-- After the command, `X` and `RIDX` are unspecified (R25, R26; 93 S2): free values (log 3). -/
def releaseSequencer (s : State) : State :=
  drawn { s with X := Config.hiddenX s.draws, RIDX := Config.hiddenRIDX s.draws }

/-! ### The state builder (R21, R101, R102) -/

/-- The constant selector (R101): TAU for a 16-byte key, SIGMA for a 32-byte key. -/
def selectConstants (klen : BitVec 6) (rom : ConstROM) : Words 4 :=
  if klen = 16#6 then rom.tau else rom.sigma

/-- The second key quadrant (R102): `KEY[4..7]`, or `KEY[0..3]` again for a 16-byte key. -/
def secondQuadrant (klen : BitVec 6) (key : Words 8) : Words 4 :=
  if klen = 32#6 then #v[key[4], key[5], key[6], key[7]] else #v[key[0], key[1], key[2], key[3]]

/-- The layout of `S` (R21), with the counter at (0, 0). -/
def initialLayout (con : Words 4) (key : Words 8) (k2 : Words 4) (nonce : Words 2) : Words 16 :=
  #v[con[0], key[0], key[1], key[2],
     key[3], con[1], nonce[0], nonce[1],
     0, 0, con[2], k2[0],
     k2[1], k2[2], k2[3], con[3]]

/-! ### The XOR datapath and the block counter (R151, R152) -/

/-- `lanemask(i, L)` (R151): byte j is 0xFF exactly when `4i + j < L`. -/
def lanemask (i L : Nat) : Word :=
  let n := min (L - 4 * i) 4
  if n = 4 then 0xFFFFFFFF else BitVec.ofNat 32 (2 ^ (8 * n) - 1)

/-- `(DIN[i] ^ Z[i]) & lanemask(i, L)` for every word (R150). -/
def xorChunk (din z : Words 16) (L : Nat) : Words 16 :=
  Vector.ofFn fun i => (din[i] ^^^ z[i]) &&& lanemask i.val L

/-- The 64-bit block counter `{S[9], S[8]}` (R22). -/
def counter (S : Words 16) : BitVec 64 := S[9] ++ S[8]

/-- `counter_increment()` (R152), with the exhaustion flag of R153. -/
def counterIncrement (s : State) : State :=
  { s with
    EXH := if s.S[8] = 0xFFFFFFFF ∧ s.S[9] = 0xFFFFFFFF then true else s.EXH
    S := (if s.S[8] = 0xFFFFFFFF then s.S.set 9 (s.S[9] + 1) else s.S).set 8 (s.S[8] + 1) }

end Sys2Proof.Machine
end

