-- ==== Sys2Proof/Machine/Flags.lean ====
section
/-! DEFINITION. The status and control words as the host sees them (10_state.md R33 to R35; 20_memory.md R53, R54;
60_exceptions.md R178) and the flag updates that are not part of one command. -/

namespace Sys2Proof.Machine

/-- A flag as a word: 0 or 1. -/
def bit (b : Bool) : Word := if b then 1 else 0

/-- `STATUS` while BUSY = 0 (R53): `BUSY | VALID<<1 | EXH<<2 | WERR<<3 | KSEL<<4 | ERR<<8`; reserved bits 0 (R35). -/
def statusWord (s : State) : Word :=
  bit s.BUSY ||| (bit s.VALID <<< 1) ||| (bit s.EXH <<< 2) ||| (bit s.WERR <<< 3) ||| (bit s.KSEL <<< 4)
    ||| (s.ERR.setWidth 32 <<< 8)

/-- `STATUS` while BUSY = 1 (R178): BUSY = 1 and the current WERR; bits 1, 2, 4 and 8..11 are those of the drawn
value, reserved bits 0. -/
def busyStatusWord (werr : Bool) (free : Word) : Word :=
  1 ||| (bit werr <<< 3) ||| (free &&& 0x00000F16)

/-- `CTRL` as read (R53). -/
def ctrlWord (s : State) : Word := (s.NLEN.setWidth 32 <<< 8) ||| s.KLEN.setWidth 32

/-- `CTRL` as written (R54): KLEN from bits 5:0, NLEN from bits 11:8, other bits dropped. -/
def writeCtrl (v : Word) (s : State) : State :=
  { s with KLEN := v.extractLsb' 0 6, NLEN := v.extractLsb' 8 4 }

/-- `DLEN` as read (R53). -/
def dlenWord (s : State) : Word := s.LEN.setWidth 32

/-- `DLEN` as written (R54): LEN from bits 6:0, other bits dropped. -/
def writeDlen (v : Word) (s : State) : State := { s with LEN := v.extractLsb' 0 7 }

/-- A host write to `STATUS` while BUSY = 0 (R35, R54): bit 3 clears WERR, all other bits are dropped. -/
def writeStatus (v : Word) (s : State) : State := { s with WERR := if v.getLsbD 3 then false else s.WERR }

/-- `WERR` where a dropped write and the completion of CLEAR fall into one clock cycle: R181 (c) sets it, R105 clears
it, so it is a free value (log 7). -/
def settleClearRace (s : State) : State := drawn { s with WERR := Config.clearRaceWERR s.draws }

end Sys2Proof.Machine
end

