-- ==== Sys2Proof/Machine/Operands.lean ====
section
/-! DEFINITION. The register address space (20_memory.md R50) and its read and write primitives: R53 and R54 while
BUSY = 0, 60_exceptions.md R177 and R178 while BUSY = 1. -/

namespace Sys2Proof.Machine

/-- What a word index of R50 names. -/
inductive Reg where
  | ctrl
  | cmd
  | status
  | dlen
  | ctrLo
  | ctrHi
  | key (i : Fin 8)
  | nonce (i : Fin 2)
  | qr (i : Fin 4)
  | din (i : Fin 16)
  | dout (i : Fin 16)
  | state (i : Fin 16)
  | reserved
deriving DecidableEq, Repr

/-- The map of R50, by word index. -/
def regOf (a : BitVec 7) : Reg :=
  let w := a.toNat
  if w = 0 then .ctrl
  else if w = 1 then .cmd
  else if w = 2 then .status
  else if w = 3 then .dlen
  else if w = 4 then .ctrLo
  else if w = 5 then .ctrHi
  else if 8 ≤ w ∧ w ≤ 15 then .key (Fin.ofNat 8 (w - 8))
  else if 16 ≤ w ∧ w ≤ 17 then .nonce (Fin.ofNat 2 (w - 16))
  else if 20 ≤ w ∧ w ≤ 23 then .qr (Fin.ofNat 4 (w - 20))
  else if 32 ≤ w ∧ w ≤ 47 then .din (Fin.ofNat 16 (w - 32))
  else if 48 ≤ w ∧ w ≤ 63 then .dout (Fin.ofNat 16 (w - 48))
  else if 64 ≤ w ∧ w ≤ 79 then .state (Fin.ofNat 16 (w - 64))
  else .reserved

/-- `MemRead(a, 4)` while BUSY = 0 (R53). It only looks. -/
def readReg (r : Reg) (s : State) : Word :=
  match r with
  | .ctrl => ctrlWord s
  | .cmd => 0
  | .status => statusWord s
  | .dlen => dlenWord s
  | .ctrLo => s.S[8]
  | .ctrHi => s.S[9]
  | .key _ => 0
  | .nonce i => s.NONCE[i]
  | .qr i => s.QR[i]
  | .din i => s.DIN[i]
  | .dout i => s.DOUT[i]
  | .state i => s.S[i]
  | .reserved => 0

/-- `MemWrite(a, 4, v)` while BUSY = 0 (R54). Writes to read-only and reserved words have no effect (R45, R60). -/
def writeReg (r : Reg) (v : Word) (s : State) : State :=
  match r with
  | .ctrl => writeCtrl v s
  | .cmd => startCommand v s
  | .status => writeStatus v s
  | .dlen => writeDlen v s
  | .ctrLo => s
  | .ctrHi => s
  | .key i => { s with KEY := s.KEY.set i v }
  | .nonce i => { s with NONCE := s.NONCE.set i v }
  | .qr i => { s with QR := s.QR.set i v }
  | .din i => { s with DIN := s.DIN.set i v }
  | .dout _ => s
  | .state _ => s
  | .reserved => s

/-- A read that returns any 32-bit value, drawn freshly (R178; log 4). -/
def observeFree (s : State) : State := drawn (observe (Config.busyRead s.draws) s)

/-- A host read while BUSY = 1 (R178). -/
def busyReadReg (r : Reg) (s : State) : State :=
  match r with
  | .cmd => observe 0 s
  | .reserved => observe 0 s
  | .status => drawn (observe (busyStatusWord s.WERR (Config.busyRead s.draws)) s)
  | .ctrl => observeFree s
  | .dlen => observeFree s
  | .ctrLo => observeFree s
  | .ctrHi => observeFree s
  | .key _ => observeFree s
  | .nonce _ => observeFree s
  | .qr _ => observeFree s
  | .din _ => observeFree s
  | .dout _ => observeFree s
  | .state _ => observeFree s

end Sys2Proof.Machine
end

