-- ==== Sys2Proof/Machine/Bus.lean ====
section
/-! DEFINITION. The bus transactions (20_memory.md R53, R54; 60_exceptions.md R177, R178): RD, WR. -/

namespace Sys2Proof.Machine

/-- RD: R53 while BUSY = 0, R178 while BUSY = 1. -/
def execRd (a : BitVec 7) (s : State) : Host.Outcome State Fault Refusal :=
  if s.BUSY then .next (busyReadReg (regOf a) s)
  else .next (observe (readReg (regOf a) s) s)

/-- WR: R54 while BUSY = 0, R177 while BUSY = 1. -/
def execWr (a : BitVec 7) (v : Word) (s : State) : Host.Outcome State Fault Refusal :=
  if s.BUSY then .next (dropWrite s)
  else .next (writeReg (regOf a) v s)

end Sys2Proof.Machine
end

