-- ==== Sys2Proof/Machine/CoreTransform.lean ====
section
/-! DEFINITION. The commands on the core transform's datapath (41_core_transform.md R134 to R136): QR, HASH. -/

namespace Sys2Proof.Machine

/-- The QR registers as the operand (a, b, c, d) of the quarter-round unit (R135). -/
def qrOperand (qr : Words 4) : Quad := { a := qr[0], b := qr[1], c := qr[2], d := qr[3] }

/-- QR (R135): the QR registers take the quarter-round of their values. -/
def execQr (s : State) : Host.Outcome State Fault Refusal :=
  let q := quarterround (qrOperand s.QR)
  .next (complete { s with QR := #v[q.a, q.b, q.c, q.d] })

/-- HASH (R136): the sequencer's result goes to DOUT; the counter does not move. -/
def execHash (s : State) : Host.Outcome State Fault Refusal :=
  if s.VALID = false then .next (raiseError .notInitialised s)
  else if s.EXH = true then .next (raiseError .counterExhausted s)
  else
    let t := runSequencer s
    .next (complete (releaseSequencer { t with DOUT := seqFinal t }))

end Sys2Proof.Machine
end

