-- ==== Sys2Proof/Machine/Keystream.lean ====
section
/-! DEFINITION. The keystream generator and XOR datapath (42_keystream.md R150 to R154): BLOCK. -/

namespace Sys2Proof.Machine

/-- BLOCK (R150): codes 3, 5, 4 in that order (R179); a zero length clears DOUT and uses no block (R154); else one chunk
is XORed with the keystream block of the current counter, and then the counter is incremented (R152). -/
def execBlock (s : State) : Host.Outcome State Fault Refusal :=
  if s.VALID = false then .next (raiseError .notInitialised s)
  else if s.EXH = true then .next (raiseError .counterExhausted s)
  else if 64 < s.LEN.toNat then .next (raiseError .badDataLength s)
  else if s.LEN.toNat = 0 then .next (complete { s with DOUT := Vector.replicate 16 0 })
  else
    let t := runSequencer s
    let u := { t with DOUT := xorChunk t.DIN (seqFinal t) t.LEN.toNat }
    .next (complete (counterIncrement (releaseSequencer u)))

end Sys2Proof.Machine
end

