-- ==== Sys2Proof/Machine/StateBuilder.lean ====
section
/-! DEFINITION. The state builder and constant selector (40_state_builder.md): INIT, CLEAR, NOP. Each meaning is the
body of the completion step (R176); that the step is taken only while BUSY = 1 is said where steps are chosen
(Machine/ClockEdge.lean; log 16). -/

namespace Sys2Proof.Machine

/-- INIT (R103): code 1 for a bad key length, then code 2 for a bad nonce length (R179), else the state is built. -/
def execInit (s : State) : Host.Outcome State Fault Refusal :=
  if s.KLEN ≠ 16#6 ∧ s.KLEN ≠ 32#6 then .next (raiseError .invalidKeyLength s)
  else if s.NLEN ≠ 8#4 then .next (raiseError .invalidNonceLength s)
  else
    .next (complete { s with
      S := initialLayout (selectConstants s.KLEN s.ROM) s.KEY (secondQuadrant s.KLEN s.KEY) s.NONCE
      VALID := true
      EXH := false
      KSEL := decide (s.KLEN = 16#6) })

/-- CLEAR (R105): zeroes the key material, the data registers and the flags; CTRL and DLEN keep their values. -/
def execClear (s : State) : Host.Outcome State Fault Refusal :=
  .next (complete { s with
    S := Vector.replicate 16 0
    KEY := Vector.replicate 8 0
    NONCE := Vector.replicate 2 0
    DIN := Vector.replicate 16 0
    DOUT := Vector.replicate 16 0
    QR := Vector.replicate 4 0
    VALID := false
    EXH := false
    WERR := false
    KSEL := false })

/-- NOP (R106): only the result code is written. -/
def execNop (s : State) : Host.Outcome State Fault Refusal := .next (complete s)

end Sys2Proof.Machine
end

