-- ==== Sys2Proof/Machine/ClockEdge.lean ====
section
/-! DEFINITION. What one event of the outside world does: a clock edge with its reset pin, its bus transaction and the
completion of the pending command (20_memory.md R51; 60_exceptions.md R174 to R181; 70_reset_and_hazards.md R200), and
the placing of one instruction as the next input. -/

namespace Sys2Proof.Machine

/-- A clock edge without reset and without a transaction, at which a pending command completes: the `Unit` agent's
step (R176). It is also what happens when the outside world has nothing more to do, so that a completion is always
eventually taken (weak fairness, R176; log 5). -/
def Edge.quiet : Edge := { rstN := true, bus := none, done := true }

/-- What a read during reset returns (R200: 0); a write, and no transaction, return nothing. -/
def readsInReset (bus : Option Txn) : List Word :=
  match bus with
  | none => []
  | some t =>
    match decodeBus t.header t.data with
    | .rd _ => [0]
    | _ => []

/-- A rising edge with `rst_n = 0` (R200): every register takes its reset value, a pending command is discarded, a
transaction is ignored. What is no register stays: the build-time constants (R100) and the model's own fields
(log 2, 8). -/
def resetEdge (bus : Option Txn) (s : State) : State :=
  { State.reset with
    ROM := s.ROM
    inputs := s.inputs
    reads := s.reads ++ readsInReset bus
    draws := s.draws }

/-- The completion step (R176): the body of the pending command; an illegal word ends with code 6 and has no other
effect (R75; log 17). -/
def completeStep (s : State) : Host.Outcome State Fault Refusal :=
  match decodeCmd s.PEND with
  | .ok i => exec i s
  | .error _ => .next (raiseError .illegalCommand s)

/-- Whether a completion meets a dropped write in one cycle in the one case where two rules differ on the result: the
pending command is CLEAR and the transaction a write (R105, R181 (c); log 7). -/
def clearMeetsWrite (t : Txn) (s : State) : Bool :=
  match decodeCmd s.PEND, decodeBus t.header t.data with
  | .ok .clear, .wr _ _ => true
  | _, _ => false

/-- One rising edge of `clk`. Reset wins over everything (R181 (b)). A transaction is judged against BUSY before the
edge (R181 (c)), so it comes before a completion at the same edge (log 6); a command never completes at the edge of
its own `CMD` write (R9: LAT_CMD is at least 1). With neither, nothing changes (log 5). -/
def clockEdge (e : Edge) (s : State) : Host.Outcome State Fault Refusal :=
  if e.rstN = false then .next (resetEdge e.bus s)
  else
    match e.bus with
    | none => if e.done && s.BUSY then completeStep s else .next s
    | some t =>
      match exec (decodeBus t.header t.data) s with
      | .next u =>
        if e.done && s.BUSY then
          match completeStep u with
          | .next v => .next (if clearMeetsWrite t s then settleClearRace v else v)
          | .fault f => .fault f
          | .refused r => .refused r
        else .next u
      | .fault f => .fault f
      | .refused r => .refused r

/-- One event of the outside world. -/
def handleEvent (ev : Event) (s : State) : Host.Outcome State Fault Refusal :=
  match ev with
  | .edge e => clockEdge e s
  | .secondMaster _ => .refused .secondBusMaster
  | .powerLoss => .fault .clockOrPowerLost

/-- The event to come: the oldest input, or a quiet edge when there is none. -/
def nextEvent (s : State) : Event :=
  match s.inputs with
  | [] => .edge Edge.quiet
  | ev :: _ => ev

/-- The state once its oldest input has been taken. -/
def takeInput (s : State) : State := { s with inputs := s.inputs.tail }

/-- The transaction of a table row of format BUS: its first byte is the header, the 32 bits above it the data (R71). -/
def txnOfTableWord (w : Nat) : Txn := { header := BitVec.ofNat 8 w, data := BitVec.ofNat 32 (w / 256) }

/-- `s` with the instruction of a table row as what the very next step runs: a command word is pending and completes;
a bus transaction is on the pins (log 9). -/
def placeTableWord (s : State) (nbits w : Nat) : State :=
  match tableFormat nbits with
  | some .cmd32 =>
    { s with PEND := BitVec.ofNat 32 w, BUSY := true, inputs := .edge Edge.quiet :: s.inputs }
  | _ =>
    { s with
      inputs := .edge { rstN := true, bus := some (txnOfTableWord (w % 2 ^ nbits)), done := false } :: s.inputs }

end Sys2Proof.Machine
end

