-- ==== Sys2Proof/Machine/Step.lean ====
section
/-! DEFINITION. The step: the outside world's next event happens to the unit (00_scope.md R6; log 5). -/

namespace Sys2Proof.Machine

/-- One step of the machine. -/
def step (s : State) : Host.Outcome State Fault Refusal := handleEvent (nextEvent s) (takeInput s)

/-- `s` with one instruction placed so that the very next step runs it (log 9). -/
def State.withFetchWord (s : State) (nbits w : Nat) : State := placeTableWord s nbits w

end Sys2Proof.Machine
end

