-- ==== Sys2Proof/Machine/HostNotation.lean ====
section
/-! DEFINITION. The host's side of the bus: register names, transactions and the pseudo-instructions of the host syntax
(30_encoding.md R78, R79). The unit sees only the transactions they expand to. -/

namespace Sys2Proof.Machine

/-- The word index a register name stands for (R50, R78). `reserved` names no one word: word 6 stands for it. -/
def waddr : Reg → BitVec 7
  | .ctrl => 0
  | .cmd => 1
  | .status => 2
  | .dlen => 3
  | .ctrLo => 4
  | .ctrHi => 5
  | .key i => BitVec.ofNat 7 (8 + i.val)
  | .nonce i => BitVec.ofNat 7 (16 + i.val)
  | .qr i => BitVec.ofNat 7 (20 + i.val)
  | .din i => BitVec.ofNat 7 (32 + i.val)
  | .dout i => BitVec.ofNat 7 (48 + i.val)
  | .state i => BitVec.ofNat 7 (64 + i.val)
  | .reserved => 6

/-- `RD <reg>` (R78). -/
def hostRd (r : Reg) : Instr := .rd (waddr r)

/-- `WR <reg>, <value>` (R78). -/
def hostWr (r : Reg) (v : Word) : Instr := .wr (waddr r) v

/-- The host-side branch `BBS <hv>, <bit>, <label>` (R78): whether it is taken. -/
def bbsTaken (hv : Word) (b : Nat) : Bool := hv.getLsbD b

/-- The six commands a host can name after `CMD` (R79). -/
inductive Command where
  | nop
  | init
  | block
  | hash
  | qr
  | clear
deriving DecidableEq, Repr

/-- The command word (R74). -/
def Command.word : Command → Word
  | .nop => 0x0
  | .init => 0x1
  | .block => 0x2
  | .hash => 0x3
  | .qr => 0x4
  | .clear => 0x5

/-- The pseudo-instructions of R79 that are a fixed list of transactions. -/
inductive Pseudo where
  | cmd (c : Command)
  | ldkey (k : Words 8)
  | ldkey16 (k : Words 4)
  | ldnonce (n : Words 2)
  | lddin (d : Words 16)
  | lddin0
  | rdout
  | setlen (klen nlen : Word)
deriving DecidableEq, Repr

/-- The expansions of R79. -/
def Pseudo.expand : Pseudo → List Instr
  | .cmd c => [hostWr .cmd c.word]
  | .ldkey k => (List.finRange 8).map fun i => hostWr (.key i) k[i]
  | .ldkey16 k => (List.finRange 4).map fun i => hostWr (.key (i.castLE (by decide))) k[i]
  | .ldnonce n => [hostWr (.nonce 0) n[0], hostWr (.nonce 1) n[1]]
  | .lddin d => (List.finRange 16).map fun i => hostWr (.din i) d[i]
  | .lddin0 => (List.finRange 16).map fun i => hostWr (.din i) 0
  | .rdout => (List.finRange 16).map fun i => hostRd (.dout i)
  | .setlen klen nlen => [hostWr .ctrl ((nlen <<< 8) ||| klen)]

/-- `WAIT` (R79) as the host runs it: `RD STATUS -> t` is repeated while bit 0 of `t` is 1. `waitOver` says of the
values its reads returned that the loop has ended: the last has bit 0 clear and every earlier one has it set. -/
def waitOver : List Word → Bool
  | [] => false
  | [t] => !bbsTaken t 0
  | t :: ts => bbsTaken t 0 && waitOver ts

/-- The transaction an instruction puts on the pins (R71); a command word reaches the unit only as the data of a
write to `CMD` (R70). -/
def instrTxn : Instr → Option Txn
  | .nop => none
  | .init => none
  | .block => none
  | .hash => none
  | .qr => none
  | .clear => none
  | .rd a => some { header := busHeader 0 a, data := 0 }
  | .wr a d => some { header := busHeader 1 a, data := d }

/-- A clock edge with this transaction, at which no command completes. -/
def busEdge (i : Instr) : Edge := { rstN := true, bus := instrTxn i, done := false }

/-- A clock edge with `rst_n = 0` (R200). -/
def Edge.reset : Edge := { rstN := false, bus := none, done := false }

end Sys2Proof.Machine
end

