-- ==== Sys2Proof/Machine/Stream.lean ====
section
/-! DEFINITION. The host sequences the spec defines: issuing a command and waiting (30_encoding.md R79), the boot
sequence (70_reset_and_hazards.md R202) and `transform` on a byte string (42_keystream.md R155). They take the
interleaving in which the completion comes before the first poll (log 19). -/

namespace Sys2Proof.Machine

/-- Clock edges one after another, ending at the first stop. -/
def runEdges : List Edge → State → Host.Outcome State Fault Refusal
  | [], s => .next s
  | e :: es, s =>
    match clockEdge e s with
    | .next t => runEdges es t
    | .fault f => .fault f
    | .refused r => .refused r

/-- `CMD c` and `WAIT` (R79): the issue step, the completion step and one poll. -/
def commandEdges (c : Command) : List Edge :=
  (Pseudo.cmd c).expand.map busEdge ++ [Edge.quiet, busEdge (hostRd .status)]

/-- What the host has read between `s` and `t` (R211). -/
def observed (s t : State) : List Word := t.reads.drop s.reads.length

/-- `n` words from bytes, little-endian, zero-padded (R56, R151). -/
def packWords (n : Nat) (m : List Byte) : Words n :=
  Vector.ofFn fun i =>
    le32 (m.getD (4 * i.val) 0) (m.getD (4 * i.val + 1) 0) (m.getD (4 * i.val + 2) 0) (m.getD (4 * i.val + 3) 0)

/-- The boot sequence of R202, steps 1 to 3, with a key of 16 or 32 bytes and a nonce of 8: reset, CTRL, KEY, NONCE,
INIT and its WAIT. -/
def bootEdges (key nonce : List Byte) : List Edge :=
  [Edge.reset] ++
  ((Pseudo.setlen (BitVec.ofNat 32 key.length) (BitVec.ofNat 32 nonce.length)).expand ++
    (if key.length = 16 then (Pseudo.ldkey16 (packWords 4 key)).expand
     else (Pseudo.ldkey (packWords 8 key)).expand) ++
    (Pseudo.ldnonce (packWords 2 nonce)).expand).map busEdge ++
  commandEdges .init

/-- One chunk of R155: `DLEN`, `DIN`, `CMD BLOCK`, `WAIT`, and the reads of `DOUT`. -/
def chunkEdges (m : List Byte) : List Edge :=
  ([hostWr .dlen (BitVec.ofNat 32 m.length)] ++ (Pseudo.lddin (packWords 16 m)).expand).map busEdge ++
  commandEdges .block ++
  Pseudo.rdout.expand.map busEdge

/-- One chunk of R155 on the unit: the output bytes the host reads, and the unit after it. The host requires
`STATUS.ERR == 0` of the polled status word, and takes the first bytes of DOUT. -/
def transformChunk (m : List Byte) (s : State) : Option (List Byte × State) :=
  match runEdges (chunkEdges m) s with
  | .next t =>
    match observed s t with
    | status :: out =>
      if waitOver [status] && decide (status.extractLsb' 8 4 = 0#4) then
        some ((out.flatMap wordBytes).take m.length, t)
      else none
    | [] => none
  | _ => none

/-- The chunks of R155: bytes 64j .. 64j + 63, for j below ceil(N/64). -/
def chunksOf (m : List Byte) : List (List Byte) :=
  (List.range ((m.length + 63) / 64)).map fun j => (m.drop (64 * j)).take 64

/-- The chunks one after another, continuing in the unit's state. -/
def transformChunks : List (List Byte) → State → Option (List Byte × State)
  | [], s => some ([], s)
  | c :: cs, s =>
    match transformChunk c s with
    | none => none
    | some (out, t) =>
      match transformChunks cs t with
      | none => none
      | some (out', u) => some (out ++ out', u)

/-- `transform(m)` (R155). -/
def transform (m : List Byte) (s : State) : Option (List Byte × State) := transformChunks (chunksOf m) s

end Sys2Proof.Machine
end

