-- ==== Sys2Proof/Safety.lean ====
section
/-! DEFINITION. What claims are stated in: the machine's invariant, the part of the state that is observable, the host's
busy rule (70_reset_and_hazards.md R203), the folded model (00_scope.md R7) and the end of a run (R211). -/

namespace Sys2Proof.Machine

/-- The constant set `STATUS.KSEL` records (R39, R101). -/
def recordedConstants (s : State) : Words 4 := if s.KSEL then s.ROM.tau else s.ROM.sigma

/-- What holds at reset and is kept by every step. -/
structure State.Inv (s : State) : Prop where
  /-- Codes 7 to 15 are never written (R171; 93 S7). -/
  err_named : s.ERR.toNat ≤ 6
  /-- With no state built, EXH and KSEL are 0 (R35, R37, R39) and `S` is zero (R23). -/
  unbuilt : s.VALID = false → s.EXH = false ∧ s.KSEL = false ∧ s.S = Vector.replicate 16 0
  /-- EXH = 1 only with the counter wrapped to (0, 0) (R153). -/
  exhausted : s.EXH = true → counter s.S = 0
  /-- Code 3 stands only while VALID = 0 (R171, R173; 90_conflicts.md C6). -/
  err_notInitialised : s.ERR = 3 → s.VALID = false
  /-- Code 4 stands only with a usable state (R179). -/
  err_badDataLength : s.ERR = 4 → s.VALID = true ∧ s.EXH = false
  /-- Code 5 stands only while EXH = 1 (R171, R179). -/
  err_counterExhausted : s.ERR = 5 → s.VALID = true ∧ s.EXH = true
  /-- A built state holds the recorded constant set at words 0, 5, 10, 15 (R21, R101). -/
  constants : s.VALID = true →
    s.S[0] = (recordedConstants s)[0] ∧ s.S[5] = (recordedConstants s)[1] ∧
    s.S[10] = (recordedConstants s)[2] ∧ s.S[15] = (recordedConstants s)[3]
  /-- A state built from a 16-byte key repeats its first key quadrant (R102). -/
  short_key : s.VALID = true → s.KSEL = true →
    s.S[11] = s.S[1] ∧ s.S[12] = s.S[2] ∧ s.S[13] = s.S[3] ∧ s.S[14] = s.S[4]

/-- The register state a run is judged by (R211): everything but the hidden `X` and `RIDX` and the model's own
fields. -/
def State.registers (s : State) : State :=
  { s with X := Vector.replicate 16 0, RIDX := 0, inputs := [], reads := [], draws := 0 }

/-- The host's rule of R203: while BUSY = 1 it issues only reads of `STATUS`. -/
def KeepsBusyRule (e : Edge) (s : State) : Prop :=
  s.BUSY = true → ∀ t, e.bus = some t → decodeBus t.header t.data = .rd (waddr .status)

/-- The folded model of R7: issue and completion of a command word as one step. -/
def foldedCommand (v : Word) (s : State) : Host.Outcome State Fault Refusal := completeStep (startCommand v s)

/-- The end of a run (R211): the host has performed its last transaction and BUSY = 0. R211 does not say whether edges
still to come without a transaction, idle ones or a reset after the last transaction, belong to the run. DESIGN CHOICE
(log 20): they do, so a run ends once every input has been taken. -/
def State.RunEnded (s : State) : Prop := s.inputs = [] ∧ s.BUSY = false

/-- This step is a reset (R200). -/
def State.Resets (s : State) : Prop := ∃ e, nextEvent s = .edge e ∧ e.rstN = false

/-- This step holds the completion step of the command `i` (R176). -/
def State.Completes (s : State) (i : Instr) : Prop :=
  ∃ e, nextEvent s = .edge e ∧ e.rstN = true ∧ e.done = true ∧ s.BUSY = true ∧ decodeCmd s.PEND = .ok i

/-- This step holds the completion step of some command word, legal or not (R176). -/
def State.CompletesSome (s : State) : Prop :=
  ∃ e, nextEvent s = .edge e ∧ e.rstN = true ∧ e.done = true ∧ s.BUSY = true

/-- In this step the host writes `v` to the word `a`, accepted or dropped (R54, R177). -/
def State.HostWrites (s : State) (a : BitVec 7) (v : Word) : Prop :=
  ∃ e x, nextEvent s = .edge e ∧ e.rstN = true ∧ e.bus = some x ∧ decodeBus x.header x.data = .wr a v

/-- A run within one stream: steps of which none is a reset or completes an INIT or a CLEAR (R160). -/
inductive StreamRun (s : State) : State → Prop where
  | start : StreamRun s s
  | next {t u : State} : StreamRun s t → ¬ t.Resets → ¬ t.Completes .init → ¬ t.Completes .clear →
      step t = .next u → StreamRun s u

/-- A BLOCK with `DLEN.LEN >= 1` completes here with result code 0, leading to `t` (R160). -/
def State.UsesBlock (s t : State) : Prop :=
  s.Completes .block ∧ 1 ≤ s.LEN.toNat ∧ step s = .next t ∧ t.ERR = 0

end Sys2Proof.Machine
end

