-- ==== Sys2Proof/Certificates/Slice0/Obligations.lean ====
section
/-! DEFINITION. The statements for the provers. Each docstring names the rule of spec/ it formalises. -/

open Sys2Proof Sys2Proof.Machine

/-! ### Encoding (30_encoding.md) -/

/-- Decode and encode agree on every instruction, with every operand value, whatever bytes follow (R71, R72, R74, R77).
The order of the bytes is the model's (log 15). -/
def Obligations.DecodeOfEncodeReturnsInstruction : Prop :=
  ∀ (i : Instr) (rest : List Byte), decode i.format (encode i ++ rest) = .ok (i, rest)

/-- Decoding is unambiguous: bytes that decode are the encoding of what they decode to (R75, R76, R77). -/
def Obligations.DecodedBytesAreTheEncoding : Prop :=
  ∀ (f : Format) (bytes : List Byte) (i : Instr) (rest : List Byte),
    decode f bytes = .ok (i, rest) → f = i.format ∧ bytes = encode i ++ rest

/-- R74, R76: a command word selects its command exactly when it equals the listed word, and every other word, one
with `RSV != 0` or `OP` in 0x6..0xF, is illegal. -/
def Obligations.CommandWordsAreTheOpcodeMap : Prop :=
  ∀ v : Word,
    (∀ i, decodeCmd v = .ok i ↔
      (i, v) ∈ [(Instr.nop, 0x0#32), (.init, 0x1#32), (.block, 0x2#32), (.hash, 0x3#32), (.qr, 0x4#32), (.clear, 0x5#32)]) ∧
    (decodeCmd v = .error (.illegalCommand v) ↔ v.extractLsb' 4 28 ≠ 0 ∨ 6 ≤ (v.extractLsb' 0 4).toNat)

/-- R71, R76: every header is valid; bit 7 is WE and bits 6:0 are WADDR, and a write carries its data. -/
def Obligations.EveryBusHeaderDecodes : Prop :=
  ∀ (h : Byte) (d : Word),
    (h.getLsbD 7 = true → decodeBus h d = .wr (BitVec.ofNat 7 (h.toNat % 128)) d) ∧
    (h.getLsbD 7 = false → decodeBus h d = .rd (BitVec.ofNat 7 (h.toNat % 128)))

/-- Words written out from R71 and R74 decode to the instructions they stand for. -/
def Obligations.ListedWordsDecode : Prop :=
  decodeTableWord 32 0x00000000 = some .nop ∧ decodeTableWord 32 0x00000001 = some .init ∧
  decodeTableWord 32 0x00000002 = some .block ∧ decodeTableWord 32 0x00000003 = some .hash ∧
  decodeTableWord 32 0x00000004 = some .qr ∧ decodeTableWord 32 0x00000005 = some .clear ∧
  decodeTableWord 8 0b00000010 = some (.rd 2) ∧ decodeTableWord 40 0x0000000181 = some (.wr 1 0x00000001) ∧
  decodeTableWord 32 0x00000012 = none ∧ decodeTableWord 32 0x00000007 = none

/-! ### The step (00_scope.md R6; 60_exceptions.md R174 to R181; 70_reset_and_hazards.md R200) -/

/-- A step whose clock edge carries a transaction, without reset and without a completion, runs the decoded
transaction, with the input taken. There is no completion where the latency of no command ends, and none while
BUSY = 0: a command does not complete at the edge of its own CMD write (R9, R176). -/
def Obligations.StepRunsTheBusTransaction : Prop :=
  ∀ (s : State) (t : Txn) (done : Bool) (rest : List Event),
    s.inputs = .edge { rstN := true, bus := some t, done := done } :: rest → done = false ∨ s.BUSY = false →
    step s = exec (decodeBus t.header t.data) { s with inputs := rest }

/-- R176: a step in which the pending command completes, and no transaction is made, runs the decoded command, with the
input taken; an illegal word reports code 6. When no input is left it completes as well (the model's weak fairness,
log 5). -/
def Obligations.StepRunsThePendingCommand : Prop :=
  ∀ s : State, s.BUSY = true →
    (∀ i, decodeCmd s.PEND = .ok i →
      (s.inputs = [] → step s = exec i s) ∧
      (∀ rest, s.inputs = .edge { rstN := true, bus := none, done := true } :: rest →
        step s = exec i { s with inputs := rest })) ∧
    (∀ e, decodeCmd s.PEND = .error e →
      (s.inputs = [] → step s = .next { s with ERR := 6, BUSY := false }) ∧
      (∀ rest, s.inputs = .edge { rstN := true, bus := none, done := true } :: rest →
        step s = .next { s with inputs := rest, ERR := 6, BUSY := false }))

/-- R75: an illegal word is accepted like any command and completes with code 6 and no other effect; every other word
is one of the six commands. -/
def Obligations.IllegalWordCompletesWithCodeSix : Prop :=
  ∀ (s : State) (v : Word),
    ((v.extractLsb' 4 28 ≠ 0 ∨ 6 ≤ (v.extractLsb' 0 4).toNat) →
      (s.BUSY = false → exec (.wr 1 v) s = .next { s with PEND := v, BUSY := true }) ∧
      (s.BUSY = true → s.PEND = v → completeStep s = .next { s with ERR := 6, BUSY := false })) ∧
    (v.extractLsb' 4 28 = 0 → (v.extractLsb' 0 4).toNat < 6 →
      ∃ i ∈ [Instr.nop, .init, .block, .hash, .qr, .clear], decodeCmd v = .ok i)

/-- R181 (c): a transaction in the cycle of the completion of any pending word is judged against BUSY before the edge: a
write is dropped with WERR set and a read is one made while busy, and the word completes, an illegal one with code 6
(R75). Where the command is CLEAR and the transaction a write, WERR after the edge is a free value (the model's reading,
log 6 and 7). -/
def Obligations.TransactionAtTheCompletionEdge : Prop :=
  ∀ (s : State) (x : Txn) (rest : List Event),
    s.inputs = .edge { rstN := true, bus := some x, done := true } :: rest → s.BUSY = true →
    ∃ u v, exec (decodeBus x.header x.data) { s with inputs := rest } = .next u ∧ completeStep u = .next v ∧
      v.BUSY = false ∧
      (∀ i, decodeCmd s.PEND = .ok i → exec i u = .next v) ∧
      (∀ e, decodeCmd s.PEND = .error e → v = { u with ERR := 6, BUSY := false }) ∧
      (∀ a d, decodeBus x.header x.data = .wr a d → u = { s with inputs := rest, WERR := true }) ∧
      (∀ a, decodeBus x.header x.data = .rd a →
        ∃ w n, u = { s with inputs := rest, reads := s.reads ++ [w], draws := n }) ∧
      ((decodeCmd s.PEND ≠ .ok .clear ∨ ∃ a, decodeBus x.header x.data = .rd a) → step s = .next v) ∧
      ((decodeCmd s.PEND = .ok .clear ∧ ∃ a d, decodeBus x.header x.data = .wr a d) →
        ∃ w n, step s = .next { v with WERR := w, draws := n })

/-- R200, R44, R181 (b): at an edge with `rst_n = 0` every register takes its reset value, whatever was pending and
whatever the host does; a read returns 0 and a write has no effect. The build-time constants stay. -/
def Obligations.ResetEdgeGivesTheResetValues : Prop :=
  ∀ (s : State) (bus : Option Txn) (done : Bool) (rest : List Event),
    s.inputs = .edge { rstN := false, bus := bus, done := done } :: rest →
    ∃ t, step s = .next t ∧
      t.S = Vector.replicate 16 0 ∧ t.KEY = Vector.replicate 8 0 ∧ t.NONCE = Vector.replicate 2 0 ∧
      t.DIN = Vector.replicate 16 0 ∧ t.DOUT = Vector.replicate 16 0 ∧ t.QR = Vector.replicate 4 0 ∧
      ctrlWord t = 0x00000820 ∧ dlenWord t = 0x00000040 ∧ statusWord t = 0x00000000 ∧
      t.BUSY = false ∧ t.VALID = false ∧ t.ROM = s.ROM ∧ t.inputs = rest ∧
      (∀ x a, bus = some x → decodeBus x.header x.data = .rd a → t.reads = s.reads ++ [0]) ∧
      (∀ x a d, bus = some x → decodeBus x.header x.data = .wr a d → t.reads = s.reads) ∧
      (bus = none → t.reads = s.reads)

/-- R201, R44: the state every run starts from holds the reset values. -/
def Obligations.ResetStateHoldsTheResetValues : Prop :=
  State.reset.S = Vector.replicate 16 0 ∧ State.reset.KEY = Vector.replicate 8 0 ∧
  State.reset.NONCE = Vector.replicate 2 0 ∧ State.reset.DIN = Vector.replicate 16 0 ∧
  State.reset.DOUT = Vector.replicate 16 0 ∧ State.reset.QR = Vector.replicate 4 0 ∧
  ctrlWord State.reset = 0x00000820 ∧ dlenWord State.reset = 0x00000040 ∧ statusWord State.reset = 0x00000000

/-- The unit goes on at every step but on the two events outside the spec: no transaction and no command ever stops it
(R51 "a transaction always completes"; R188; 93 S12). -/
def Obligations.OnlyForeignEventsStopTheUnit : Prop :=
  ∀ s : State,
    (∃ t, step s = .next t) ∨
    (∃ x rest, s.inputs = .secondMaster x :: rest ∧ step s = .refused .secondBusMaster) ∨
    (∃ rest, s.inputs = .powerLoss :: rest ∧ step s = .fault .clockOrPowerLost)

/-! ### State builder (40_state_builder.md) -/

/-- R106: NOP, word 0x00000000, writes only the result code and ends busy; its write to CMD sets BUSY. -/
def Obligations.NopWritesOnlyTheResultCode : Prop :=
  decodeCmd 0x00000000 = .ok .nop ∧
  (∀ s : State, exec .nop s = .next { s with ERR := 0, BUSY := false }) ∧
  ∀ s : State, s.BUSY = false → exec (.wr 1 0x00000000) s = .next { s with PEND := 0x00000000, BUSY := true }

/-- R103 with R101, R102 and the layout of R21: the word 0x00000001, both key lengths, and the two errors with their
order. -/
def Obligations.InitBuildsTheState : Prop :=
  decodeCmd 0x00000001 = .ok .init ∧
  ∀ s : State,
    (s.KLEN = 32#6 → s.NLEN = 8#4 →
      exec .init s = .next { s with
        S := #v[s.ROM.sigma[0], s.KEY[0], s.KEY[1], s.KEY[2], s.KEY[3], s.ROM.sigma[1], s.NONCE[0], s.NONCE[1],
          0, 0, s.ROM.sigma[2], s.KEY[4], s.KEY[5], s.KEY[6], s.KEY[7], s.ROM.sigma[3]]
        VALID := true, EXH := false, KSEL := false, ERR := 0, BUSY := false }) ∧
    (s.KLEN = 16#6 → s.NLEN = 8#4 →
      exec .init s = .next { s with
        S := #v[s.ROM.tau[0], s.KEY[0], s.KEY[1], s.KEY[2], s.KEY[3], s.ROM.tau[1], s.NONCE[0], s.NONCE[1],
          0, 0, s.ROM.tau[2], s.KEY[0], s.KEY[1], s.KEY[2], s.KEY[3], s.ROM.tau[3]]
        VALID := true, EXH := false, KSEL := true, ERR := 0, BUSY := false }) ∧
    (s.KLEN ≠ 16#6 → s.KLEN ≠ 32#6 → exec .init s = .next { s with ERR := 1, BUSY := false }) ∧
    (s.KLEN = 16#6 ∨ s.KLEN = 32#6 → s.NLEN ≠ 8#4 → exec .init s = .next { s with ERR := 2, BUSY := false })

/-- R102: with a 16-byte key the contents of `KEY[4..7]` have no effect on INIT. -/
def Obligations.ShortKeyInitIgnoresTheUpperKeyWords : Prop :=
  ∀ (s : State) (k : Words 8), s.KLEN = 16#6 →
    k[0] = s.KEY[0] → k[1] = s.KEY[1] → k[2] = s.KEY[2] → k[3] = s.KEY[3] →
    ∃ t, exec .init s = .next t ∧ exec .init { s with KEY := k } = .next { t with KEY := k }

/-- R207: KEY, NONCE and CTRL are read only by INIT: no other command's effect depends on them. -/
def Obligations.OnlyInitReadsKeyNonceAndCtrl : Prop :=
  ∀ i ∈ [Instr.nop, .block, .hash, .qr], ∀ (s : State) (k : Words 8) (n : Words 2) (kl : BitVec 6) (nl : BitVec 4),
    ∃ t, exec i s = .next t ∧
      exec i { s with KEY := k, NONCE := n, KLEN := kl, NLEN := nl } =
        .next { t with KEY := k, NONCE := n, KLEN := kl, NLEN := nl }

/-- R105: CLEAR, word 0x00000005, zeroes the key material, the data registers and the flags, and changes nothing else;
HASH and BLOCK then fail with code 3; no other command clears WERR. -/
def Obligations.ClearZeroesKeyMaterialAndFlags : Prop :=
  decodeCmd 0x00000005 = .ok .clear ∧
  (∀ s : State, ∃ t,
    t = { s with
      S := Vector.replicate 16 0, KEY := Vector.replicate 8 0, NONCE := Vector.replicate 2 0
      DIN := Vector.replicate 16 0, DOUT := Vector.replicate 16 0, QR := Vector.replicate 4 0
      VALID := false, EXH := false, WERR := false, KSEL := false, ERR := 0, BUSY := false } ∧
    exec .clear s = .next t ∧
    exec .hash t = .next { t with ERR := 3 } ∧ exec .block t = .next { t with ERR := 3 }) ∧
  ∀ i ∈ [Instr.nop, .init, .block, .hash, .qr], ∀ s t : State, exec i s = .next t → t.WERR = s.WERR

/-! ### Core transform (41_core_transform.md) -/

/-- R120, R11: on 32-bit words and for 0 < n < 32, `rotl` is the rotation to the left. -/
def Obligations.RotlIsLeftRotation : Prop :=
  ∀ (v : Word) (n i : Nat), 0 < n → n < 32 → i < 32 →
    (rotl v n).getLsbD ((i + n) % 32) = v.getLsbD i

/-- R122: the quarter-round keeps zero, is a bijection, undone by the updates in reverse order, and is not the function
that computes the four updates from the old words in parallel. -/
def Obligations.QuarterroundIsUndoneInReverse : Prop :=
  let undo : Quad → Quad := fun q =>
    let a := q.a ^^^ rotl (q.d + q.c) 18
    let d := q.d ^^^ rotl (q.c + q.b) 13
    let c := q.c ^^^ rotl (q.b + a) 9
    let b := q.b ^^^ rotl (a + d) 7
    { a := a, b := b, c := c, d := d }
  let inParallel : Quad → Quad := fun q =>
    { a := q.a ^^^ rotl (q.d + q.c) 18, b := q.b ^^^ rotl (q.a + q.d) 7, c := q.c ^^^ rotl (q.b + q.a) 9
      d := q.d ^^^ rotl (q.c + q.b) 13 }
  quarterround { a := 0, b := 0, c := 0, d := 0 } = { a := 0, b := 0, c := 0, d := 0 } ∧
  (0xFFFFFFFF : Word) + 0x00000001 = 0 ∧
  (∀ q, undo (quarterround q) = q) ∧ (∀ q, quarterround (undo q) = q) ∧ quarterround ≠ inParallel

/-- R125: the four groups of a round cover all 16 positions once, and the four quarter-rounds of a column round, and of
a row round, may run one after another in any order. -/
def Obligations.RoundGroupsRunInAnyOrder : Prop :=
  (columnGroups.flatMap fun g => [g.i, g.j, g.k, g.l]).Perm (List.finRange 16) ∧
  (rowGroups.flatMap fun g => [g.i, g.j, g.k, g.l]).Perm (List.finRange 16) ∧
  (∀ gs : List PosGroup, gs.Perm columnGroups → ∀ x, gs.foldl applyGroup x = columnround x) ∧
  (∀ gs : List PosGroup, gs.Perm rowGroups → ∀ x, gs.foldl applyGroup x = rowround x)

/-- R126: the column round is the row round between transpositions. -/
def Obligations.ColumnroundIsTransposedRowround : Prop :=
  (∀ (x : Words 16) (r c : Nat) (hr : r < 4) (hc : c < 4), (transpose x)[4 * r + c] = x[4 * c + r]) ∧
  (∀ x, columnround x = transpose (rowround (transpose x)))

/-- Every double round is a bijection of the 2^512 states: no round loses information (from R122 and R127). -/
def Obligations.DoubleroundIsBijective : Prop := Function.Bijective doubleround

/-- R131: the sequencer, run from any `X` and `RIDX`, ends with `RIDX = 20` and a result equal to `core(S)`, and writes
nothing but `X` and `RIDX`. -/
def Obligations.SequencerComputesTheCore : Prop :=
  ∀ s : State, seqFinal (runSequencer s) = coreBlock s.S ∧
    runSequencer s = { s with X := doublerounds 10 s.S, RIDX := 20 }

/-- R135: QR, word 0x00000004, replaces the QR registers by their quarter-round and changes nothing else, whatever VALID
and EXH are. -/
def Obligations.QrAppliesTheQuarterround : Prop :=
  decodeCmd 0x00000004 = .ok .qr ∧
  ∀ (s : State) (q : Quad), q = quarterround { a := s.QR[0], b := s.QR[1], c := s.QR[2], d := s.QR[3] } →
    exec .qr s = .next { s with QR := #v[q.a, q.b, q.c, q.d], ERR := 0, BUSY := false }

/-- R136: HASH, word 0x00000003, writes `core(S)` to DOUT and does not move the counter; codes 3 and 5, in that order, write only ERR.
`X` and `RIDX` afterwards are unspecified (R25, R26). -/
def Obligations.HashWritesTheKeystreamBlock : Prop :=
  decodeCmd 0x00000003 = .ok .hash ∧
  ∀ s : State,
    (s.VALID = true → s.EXH = false → ∃ x r n,
      exec .hash s = .next { s with DOUT := coreBlock s.S, ERR := 0, BUSY := false, X := x, RIDX := r, draws := n }) ∧
    (s.VALID = false → exec .hash s = .next { s with ERR := 3, BUSY := false }) ∧
    (s.VALID = true → s.EXH = true → exec .hash s = .next { s with ERR := 5, BUSY := false })

/-! ### Keystream and XOR datapath (42_keystream.md) -/

/-- R150 with R152: BLOCK, word 0x00000002, writes the masked XOR of DIN and `core(S)` to DOUT and adds 1 to the 64-bit counter
`{S[9], S[8]}` mod 2^64, setting EXH when it wraps; a zero length clears DOUT and moves nothing; codes 3, 5, 4 in that
order write only ERR. -/
def Obligations.BlockXorsOneChunk : Prop :=
  decodeCmd 0x00000002 = .ok .block ∧
  ∀ s : State,
    (s.VALID = true → s.EXH = false → 1 ≤ s.LEN.toNat → s.LEN.toNat ≤ 64 →
      ∃ (D S' : Words 16) (x : Words 16) (r : Fin 21) (n : Nat),
        exec .block s = .next { s with
          DOUT := D, S := S', EXH := decide (s.S[9] ++ s.S[8] = BitVec.allOnes 64)
          ERR := 0, BUSY := false, X := x, RIDX := r, draws := n } ∧
        (∀ i : Fin 16, D[i] = (s.DIN[i] ^^^ (coreBlock s.S)[i]) &&& lanemask i.val s.LEN.toNat) ∧
        (S'[9] ++ S'[8] = s.S[9] ++ s.S[8] + 1#64) ∧
        (∀ i : Fin 16, i ≠ 8 → i ≠ 9 → S'[i] = s.S[i])) ∧
    (s.VALID = true → s.EXH = false → s.LEN.toNat = 0 →
      exec .block s = .next { s with DOUT := Vector.replicate 16 0, ERR := 0, BUSY := false }) ∧
    (s.VALID = false → exec .block s = .next { s with ERR := 3, BUSY := false }) ∧
    (s.VALID = true → s.EXH = true → exec .block s = .next { s with ERR := 5, BUSY := false }) ∧
    (s.VALID = true → s.EXH = false → 64 < s.LEN.toNat → exec .block s = .next { s with ERR := 4, BUSY := false })

/-- R151: for L in 1..64 output byte k is `in[k] ^ ks[k]` below L and 0 from L on; and byte j of `lanemask(i, L)` is 0xFF
exactly when `4i + j < L`, else 0. -/
def Obligations.OutputBytesOfAChunk : Prop :=
  (∀ s : State, s.VALID = true → s.EXH = false → 1 ≤ s.LEN.toNat → s.LEN.toNat ≤ 64 →
    ∃ t, exec .block s = .next t ∧ ∀ k, k < 64 →
      byteAt t.DOUT k = if k < s.LEN.toNat then byteAt s.DIN k ^^^ (ser (coreBlock s.S)).getD k 0 else 0) ∧
  (∀ i j L : Nat, i < 16 → j < 4 → 1 ≤ L → L ≤ 64 → byteOf (lanemask i L) j = if 4 * i + j < L then 0xFF else 0)

/-- R151: the DIN bytes at positions k >= L do not matter. -/
def Obligations.PaddingBytesDoNotMatter : Prop :=
  ∀ (s : State) (d : Words 16), (∀ k, k < s.LEN.toNat → byteAt d k = byteAt s.DIN k) →
    ∃ t, exec .block s = .next t ∧ exec .block { s with DIN := d } = .next { t with DIN := d }

/-- R152: `{S[9], S[8]} <- ({S[9], S[8]} + 1) mod 2^64`, carrying into the high word exactly when the low word wraps, and
R153: EXH is set exactly at (0xFFFFFFFF, 0xFFFFFFFF). -/
def Obligations.CounterIncrementCarries : Prop :=
  ∀ s : State,
    counter (counterIncrement s).S = counter s.S + 1 ∧
    ((counterIncrement s).S[9] ≠ s.S[9] ↔ s.S[8] = 0xFFFFFFFF) ∧
    ((counterIncrement s).EXH = true ↔ s.EXH = true ∨ counter s.S = 0xFFFFFFFFFFFFFFFF)

/-- R153: once a BLOCK has wrapped the counter, its block was produced, the counter is (0, 0) and EXH = 1, and then BLOCK
and HASH do nothing but report code 5. -/
def Obligations.ExhaustionStopsTheKeystream : Prop :=
  ∀ s : State, s.VALID = true → s.EXH = false → 1 ≤ s.LEN.toNat → s.LEN.toNat ≤ 64 →
    counter s.S = 0xFFFFFFFFFFFFFFFF →
    ∃ t, exec .block s = .next t ∧ t.ERR = 0 ∧ t.EXH = true ∧ t.S[8] = 0 ∧ t.S[9] = 0 ∧
      (∀ i : Fin 16, t.DOUT[i] = (s.DIN[i] ^^^ (coreBlock s.S)[i]) &&& lanemask i.val s.LEN.toNat) ∧
      exec .block t = .next { t with ERR := 5, BUSY := false } ∧
      exec .hash t = .next { t with ERR := 5, BUSY := false }

/-- R136 (corner cases), R160: HASH shows the block the next BLOCK will use: with `DIN = 0` and `DLEN.LEN = 64` the BLOCK
after a HASH writes the same DOUT. -/
def Obligations.HashShowsTheNextBlock : Prop :=
  ∀ s : State, s.VALID = true → s.EXH = false → s.LEN = 64#7 → s.DIN = Vector.replicate 16 0 →
    ∃ t u, exec .hash s = .next t ∧ exec .block t = .next u ∧ u.DOUT = t.DOUT ∧ t.S = s.S ∧
      counter u.S = counter s.S + 1

/-! ### Errors (60_exceptions.md R171 to R179) -/

/-- R173: a command that ends with an error, an illegal one too, has written no register but ERR (and BUSY, which every
completion clears, R176). -/
def Obligations.ErrorsArePrecise : Prop :=
  ∀ s : State, ∃ t, completeStep s = .next t ∧ t.BUSY = false ∧
    (t.ERR ≠ 0 → t = { s with ERR := t.ERR, BUSY := false })

/-- R179: which code a command reports when several errors apply. -/
def Obligations.ErrorPriority : Prop :=
  ∀ s : State, ∃ t, completeStep s = .next t ∧
    (decodeCmd s.PEND = .ok .init →
      t.ERR = if s.KLEN ≠ 16#6 ∧ s.KLEN ≠ 32#6 then 1 else if s.NLEN ≠ 8#4 then 2 else 0) ∧
    (decodeCmd s.PEND = .ok .hash →
      t.ERR = if s.VALID = false then 3 else if s.EXH = true then 5 else 0) ∧
    (decodeCmd s.PEND = .ok .block →
      t.ERR = if s.VALID = false then 3 else if s.EXH = true then 5 else if 64 < s.LEN.toNat then 4 else 0) ∧
    (s.PEND.extractLsb' 4 28 ≠ 0 ∨ 6 ≤ (s.PEND.extractLsb' 0 4).toNat → t.ERR = 6)

/-! ### The bus (20_memory.md R53, R54; 60_exceptions.md R177, R178) -/

/-- R53: what a read returns while BUSY = 0, word by word; it changes no state (the value goes to the host). -/
def Obligations.IdleReadReturnsTheRegister : Prop :=
  ∀ (s : State) (a : BitVec 7), s.BUSY = false →
    ∃ v, exec (.rd a) s = .next { s with reads := s.reads ++ [v] } ∧
      (a = 0 → v = (s.NLEN.setWidth 32 <<< 8) ||| s.KLEN.setWidth 32) ∧
      (a = 1 → v = 0) ∧
      (a = 2 → v = bit s.BUSY ||| bit s.VALID <<< 1 ||| bit s.EXH <<< 2 ||| bit s.WERR <<< 3 ||| bit s.KSEL <<< 4
        ||| s.ERR.setWidth 32 <<< 8) ∧
      (a = 3 → v = s.LEN.setWidth 32) ∧
      (a = 4 → v = s.S[8]) ∧
      (a = 5 → v = s.S[9]) ∧
      (∀ i : Fin 8, a.toNat = 8 + i.val → v = 0) ∧
      (∀ i : Fin 2, a.toNat = 16 + i.val → v = s.NONCE[i]) ∧
      (∀ i : Fin 4, a.toNat = 20 + i.val → v = s.QR[i]) ∧
      (∀ i : Fin 16, a.toNat = 32 + i.val → v = s.DIN[i]) ∧
      (∀ i : Fin 16, a.toNat = 48 + i.val → v = s.DOUT[i]) ∧
      (∀ i : Fin 16, a.toNat = 64 + i.val → v = s.S[i]) ∧
      (a = 6 ∨ a = 7 ∨ a = 18 ∨ a = 19 ∨ (24 ≤ a.toNat ∧ a.toNat ≤ 31) ∨ 80 ≤ a.toNat → v = 0)

/-- R35: the bits of the STATUS word, reserved ones 0. -/
def Obligations.StatusWordLayout : Prop :=
  ∀ s : State,
    (statusWord s).getLsbD 0 = s.BUSY ∧ (statusWord s).getLsbD 1 = s.VALID ∧ (statusWord s).getLsbD 2 = s.EXH ∧
    (statusWord s).getLsbD 3 = s.WERR ∧ (statusWord s).getLsbD 4 = s.KSEL ∧
    (statusWord s).extractLsb' 8 4 = s.ERR ∧ (statusWord s).extractLsb' 5 3 = 0 ∧ (statusWord s).extractLsb' 12 20 = 0

/-- R54: what a write does while BUSY = 0, word by word; a write to a read-only or reserved word does nothing. -/
def Obligations.IdleWriteSetsTheRegister : Prop :=
  ∀ (s : State) (a : BitVec 7) (v : Word), s.BUSY = false →
    (a = 0 → exec (.wr a v) s = .next { s with KLEN := v.extractLsb' 0 6, NLEN := v.extractLsb' 8 4 }) ∧
    (a = 1 → exec (.wr a v) s = .next { s with PEND := v, BUSY := true }) ∧
    (a = 2 → exec (.wr a v) s = .next { s with WERR := s.WERR && !v.getLsbD 3 }) ∧
    (a = 3 → exec (.wr a v) s = .next { s with LEN := v.extractLsb' 0 7 }) ∧
    (∀ i : Fin 8, a.toNat = 8 + i.val → exec (.wr a v) s = .next { s with KEY := s.KEY.set i v }) ∧
    (∀ i : Fin 2, a.toNat = 16 + i.val → exec (.wr a v) s = .next { s with NONCE := s.NONCE.set i v }) ∧
    (∀ i : Fin 4, a.toNat = 20 + i.val → exec (.wr a v) s = .next { s with QR := s.QR.set i v }) ∧
    (∀ i : Fin 16, a.toNat = 32 + i.val → exec (.wr a v) s = .next { s with DIN := s.DIN.set i v }) ∧
    ((4 ≤ a.toNat ∧ a.toNat ≤ 7) ∨ a = 18 ∨ a = 19 ∨ (24 ≤ a.toNat ∧ a.toNat ≤ 31) ∨ 48 ≤ a.toNat →
      exec (.wr a v) s = .next s)

/-- R177: a write while BUSY = 1, to any word, is dropped and sets WERR; nothing else changes. -/
def Obligations.BusyWriteIsDropped : Prop :=
  ∀ (s : State) (a : BitVec 7) (v : Word), s.BUSY = true → exec (.wr a v) s = .next { s with WERR := true }

/-- R178: a read while BUSY = 1 returns a word, changes no register, and is bound only where the rule binds it: STATUS
has BUSY = 1, the current WERR and zero reserved bits, CMD and reserved words are 0. -/
def Obligations.BusyReadBindsStatusCmdAndReservedWords : Prop :=
  ∀ (s : State) (a : BitVec 7), s.BUSY = true →
    ∃ v n, exec (.rd a) s = .next { s with reads := s.reads ++ [v], draws := n } ∧
      (a = 2 → v.getLsbD 0 = true ∧ v.getLsbD 3 = s.WERR ∧ v.extractLsb' 5 3 = 0 ∧ v.extractLsb' 12 20 = 0) ∧
      (a = 1 → v = 0) ∧
      (a = 6 ∨ a = 7 ∨ a = 18 ∨ a = 19 ∨ (24 ≤ a.toNat ∧ a.toNat ≤ 31) ∨ 80 ≤ a.toNat → v = 0)

/-- R178, "a model draws that value freshly": a read while BUSY = 1 of a word other than STATUS, CMD and the reserved ones
returns the next drawn value, STATUS the drawn value in the bits the rule leaves open, and both advance the count of
draws; CMD and reserved words draw nothing. The form of the draw, a constant with no body at that count, is the model's
choice (log 4). -/
def Obligations.BusyReadIsAFreshDraw : Prop :=
  ∀ (s : State) (a : BitVec 7), s.BUSY = true →
    (a = 2 → exec (.rd a) s = .next { s with
      reads := s.reads ++ [0x00000001 ||| (bit s.WERR <<< 3) ||| (Config.busyRead s.draws &&& 0x00000F16)]
      draws := s.draws + 1 }) ∧
    (a = 1 ∨ a = 6 ∨ a = 7 ∨ a = 18 ∨ a = 19 ∨ (24 ≤ a.toNat ∧ a.toNat ≤ 31) ∨ 80 ≤ a.toNat →
      exec (.rd a) s = .next { s with reads := s.reads ++ [0] }) ∧
    (a = 0 ∨ (3 ≤ a.toNat ∧ a.toNat ≤ 5) ∨ (8 ≤ a.toNat ∧ a.toNat ≤ 17) ∨ (20 ≤ a.toNat ∧ a.toNat ≤ 23) ∨
        (32 ≤ a.toNat ∧ a.toNat ≤ 79) →
      exec (.rd a) s = .next { s with reads := s.reads ++ [Config.busyRead s.draws], draws := s.draws + 1 })

/-- R33, R34, R45: a read after a write of a read/write word returns the written value masked to the register's fields. -/
def Obligations.WrittenWordReadsBackMasked : Prop :=
  ∀ (s : State) (a : BitVec 7) (v m : Word), s.BUSY = false →
    (a = 0 ∧ m = 0x00000F3F ∨ a = 3 ∧ m = 0x0000007F ∨
      ((16 ≤ a.toNat ∧ a.toNat ≤ 17) ∨ (20 ≤ a.toNat ∧ a.toNat ≤ 23) ∨ (32 ≤ a.toNat ∧ a.toNat ≤ 47)) ∧
        m = 0xFFFFFFFF) →
    ∃ t, exec (.wr a v) s = .next t ∧ exec (.rd a) t = .next { t with reads := t.reads ++ [v &&& m] }

/-- R28: no read, of any word, depends on the key registers. What a read returns while BUSY = 1 is the model's draw
(log 4). -/
def Obligations.KeyRegistersCannotBeRead : Prop :=
  ∀ (s : State) (k : Words 8) (a : BitVec 7),
    (s.BUSY = false → ∃ v, exec (.rd a) s = .next { s with reads := s.reads ++ [v] } ∧
      exec (.rd a) { s with KEY := k } = .next { s with KEY := k, reads := s.reads ++ [v] }) ∧
    (s.BUSY = true → ∃ v n, exec (.rd a) s = .next { s with reads := s.reads ++ [v], draws := n } ∧
      exec (.rd a) { s with KEY := k } = .next { s with KEY := k, reads := s.reads ++ [v], draws := n })

/-- R59: repeating a write other than one to CMD changes nothing more. -/
def Obligations.RepeatedWriteIsIdempotent : Prop :=
  ∀ (s : State) (a : BitVec 7) (v : Word), s.BUSY = false → a ≠ 1 →
    ∃ t, exec (.wr a v) s = .next t ∧ exec (.wr a v) t = .next t

/-! ### Whole-machine rules -/

/-- The invariant of the unit is kept by every step, from every state that has it. -/
def Obligations.EveryStepKeepsTheInvariant : Prop :=
  ∀ s t : State, s.Inv → step s = .next t → t.Inv

/-- The invariant holds at reset. -/
def Obligations.ResetHasTheInvariant : Prop := State.reset.Inv

/-- R174: the engine becomes busy only by an accepted write to CMD, whose word it holds, and idle only by a completion
or a reset; and then it does. -/
def Obligations.BusyChangesOnlyByIssueCompletionOrReset : Prop :=
  ∀ s t : State, step s = .next t →
    (s.BUSY = false → (t.BUSY = true ↔ ∃ v, s.HostWrites 1 v ∧ t.PEND = v)) ∧
    (s.BUSY = true → (t.BUSY = false ↔ s.CompletesSome ∨ s.Resets))

/-- R36, R39, R40: VALID and KSEL change only in a step that completes INIT or CLEAR or resets, and ERR only in one that
completes a command or resets. -/
def Obligations.ValidKselErrWriters : Prop :=
  ∀ s t : State, step s = .next t →
    (t.VALID ≠ s.VALID → s.Completes .init ∨ s.Completes .clear ∨ s.Resets) ∧
    (t.KSEL ≠ s.KSEL → s.Completes .init ∨ s.Completes .clear ∨ s.Resets) ∧
    (t.ERR ≠ s.ERR → s.CompletesSome ∨ s.Resets)

/-- R37: EXH is set only by a successful BLOCK with a counter of all ones, and cleared only by a successful INIT, CLEAR or
reset. -/
def Obligations.ExhaustedFlagWriters : Prop :=
  ∀ s t : State, step s = .next t →
    (s.EXH = false → t.EXH = true →
      s.Completes .block ∧ t.ERR = 0 ∧ s.S[8] = 0xFFFFFFFF ∧ s.S[9] = 0xFFFFFFFF) ∧
    (s.EXH = true → t.EXH = false → (s.Completes .init ∧ t.ERR = 0) ∨ s.Completes .clear ∨ s.Resets)

/-- R38: WERR is set only by a host write while BUSY = 1, and cleared only by a write-1 to STATUS bit 3 while BUSY = 0, by
CLEAR or by reset. -/
def Obligations.WriteErrorFlagWriters : Prop :=
  ∀ s t : State, step s = .next t →
    (s.WERR = false → t.WERR = true → s.BUSY = true ∧ ∃ a v, s.HostWrites a v) ∧
    (s.WERR = true → t.WERR = false →
      (s.BUSY = false ∧ ∃ v, s.HostWrites 2 v ∧ v.getLsbD 3 = true) ∨ s.Completes .clear ∨ s.Resets)

/-- R23, R24: only a successful INIT, a successful BLOCK with `DLEN.LEN >= 1`, CLEAR and reset write `S`, and BLOCK writes
only the counter words; no bus access does. The build-time constants never change (R100). -/
def Obligations.CipherStateWriters : Prop :=
  ∀ s t : State, step s = .next t →
    (t.S ≠ s.S → (s.Completes .init ∧ t.ERR = 0) ∨ (s.Completes .block ∧ t.ERR = 0 ∧ 1 ≤ s.LEN.toNat) ∨
      s.Completes .clear ∨ s.Resets) ∧
    (s.Completes .block → ∀ i : Fin 16, i ≠ 8 → i ≠ 9 → t.S[i] = s.S[i]) ∧
    t.ROM = s.ROM

/-- Who writes the host-visible registers: without a reset or a CLEAR, KEY, NONCE, DIN, CTRL and DLEN change only by a
host write while BUSY = 0 (R28, R29, R30, R33, R34), DOUT only by HASH or BLOCK with code 0 (R31), QR only by a host
write while BUSY = 0 or by the command QR (R32). -/
def Obligations.HostRegisterWriters : Prop :=
  ∀ s t : State, step s = .next t → ¬ s.Resets → ¬ s.Completes .clear →
    ((s.BUSY = true ∨ ¬ ∃ a v, s.HostWrites a v) →
      t.KEY = s.KEY ∧ t.NONCE = s.NONCE ∧ t.DIN = s.DIN ∧ t.KLEN = s.KLEN ∧ t.NLEN = s.NLEN ∧ t.LEN = s.LEN ∧
      (t.QR ≠ s.QR → s.Completes .qr)) ∧
    (t.DOUT ≠ s.DOUT → (s.Completes .hash ∨ s.Completes .block) ∧ t.ERR = 0)

/-- R67: whatever the host does between the CMD write and the completion, the registers the command reads keep the values
they had at the CMD write: only WERR and what the host has read can differ. -/
def Obligations.CommandInputsAreHeldWhileBusy : Prop :=
  ∀ (s : State) (v : Word) (es : List Edge), s.BUSY = false → (∀ e ∈ es, e.rstN = true ∧ e.done = false) →
    ∃ t, runEdges (busEdge (.wr 1 v) :: es) s = .next t ∧
      t = { s with PEND := v, BUSY := true, WERR := t.WERR, reads := t.reads, draws := t.draws }

/-- R25, S2: nothing observable depends on the hidden `X` and `RIDX`: two runs of a step that differ only in them differ
afterwards in nothing else. -/
def Obligations.HiddenStateIsUnobservable : Prop :=
  ∀ (s t : State) (x : Words 16) (r : Fin 21), step s = .next t →
    ∃ x' r', step { s with X := x, RIDX := r } = .next { t with X := x', RIDX := r' }

/-- R7: for a host that after its CMD write only polls STATUS until the command completes, the two-phase model and the
folded model agree on every register. -/
def Obligations.FoldedModelAgrees : Prop :=
  ∀ (s : State) (v : Word) (polls : Nat), s.BUSY = false →
    ∃ t u, runEdges ([busEdge (hostWr .cmd v)] ++ List.replicate polls (busEdge (hostRd .status)) ++ [Edge.quiet]) s = .next t ∧
      foldedCommand v s = .next u ∧ t.registers = u.registers

/-- R152, R153, R160, as a law of one step: within a stream (no reset, INIT or CLEAR in the step) the counter never falls
below a value it has reached, unless it is exhausted, and EXH stays. -/
def Obligations.CounterNeverFallsWithinAStream : Prop :=
  ∀ (c : Nat) (s t : State), step s = .next t → ¬ s.Resets → ¬ s.Completes .init → ¬ s.Completes .clear →
    s.EXH = true ∨ c ≤ (counter s.S).toNat → t.EXH = true ∨ c ≤ (counter t.S).toNat

/-- R160: within one stream (no INIT, CLEAR or reset in between) no two successful BLOCKs with L >= 1 use the same
counter value; the later one's is greater. -/
def Obligations.NoCounterValueIsUsedTwice : Prop :=
  ∀ s s₁ t t₁ : State, s.UsesBlock s₁ → StreamRun s₁ t → t.UsesBlock t₁ → (counter s.S).toNat < (counter t.S).toNat

/-! ### Streams (42_keystream.md R155 to R158; 70_reset_and_hazards.md R202)

In all of them the interleaving in which the completion comes before the first poll is the model's choice (log 19). -/

/-- R202 with R56: the boot sequence with a key of 16 or 32 bytes and a nonce of 8 leaves a usable state: STATUS reads
without error, the counter is (0, 0), and `S` holds the key and nonce bytes packed little-endian. -/
def Obligations.BootSequenceBuildsTheState : Prop :=
  ∀ (s : State) (key nonce : List Byte), key.length = 16 ∨ key.length = 32 → nonce.length = 8 →
    ∃ t, runEdges (bootEdges key nonce) s = .next t ∧
      t.BUSY = false ∧ t.VALID = true ∧ t.EXH = false ∧ t.ERR = 0 ∧ counter t.S = 0 ∧
      t.KSEL = decide (key.length = 16) ∧
      (∀ k, k < 16 → byteAt t.S (4 + k) = key.getD k 0) ∧
      (∀ k, k < 16 → byteAt t.S (44 + k) = key.getD (if key.length = 16 then k else 16 + k) 0) ∧
      (∀ k, k < 8 → byteAt t.S (24 + k) = nonce.getD k 0) ∧
      t.S[0] = (recordedConstants t)[0] ∧ t.S[5] = (recordedConstants t)[1] ∧
      t.S[10] = (recordedConstants t)[2] ∧ t.S[15] = (recordedConstants t)[3]

/-- R155, R157: one chunk of `transform` on a usable state: as many bytes as went in, each the XOR with the keystream byte
of the current counter, and the counter one further. -/
def Obligations.TransformChunkXorsTheKeystream : Prop :=
  ∀ (s : State) (m : List Byte), s.BUSY = false → s.VALID = true → s.EXH = false → 1 ≤ m.length → m.length ≤ 64 →
    ∃ out t, transformChunk m s = some (out, t) ∧ out.length = m.length ∧
      (∀ k, k < m.length → out.getD k 0 = m.getD k 0 ^^^ (ser (coreBlock s.S)).getD k 0) ∧
      t.BUSY = false ∧ t.VALID = true ∧ counter t.S = counter s.S + 1 ∧
      (t.EXH = true ↔ counter s.S = 0xFFFFFFFFFFFFFFFF) ∧
      t.KEY = s.KEY ∧ t.NONCE = s.NONCE ∧ t.KLEN = s.KLEN ∧ t.NLEN = s.NLEN ∧ t.ROM = s.ROM ∧
      (∀ i : Fin 16, i ≠ 8 → i ≠ 9 → t.S[i] = s.S[i])

/-- R157, R158: `transform` of N bytes gives N bytes and advances the counter by ceil(N/64), as long as the counter is not
exhausted on the way (R153). -/
def Obligations.TransformKeepsLengthAndAdvancesTheCounter : Prop :=
  ∀ (s : State) (m : List Byte), s.BUSY = false → s.VALID = true → s.EXH = false →
    (counter s.S).toNat + (m.length + 63) / 64 ≤ 2 ^ 64 →
    ∃ out t, transform m s = some (out, t) ∧ out.length = m.length ∧
      counter t.S = counter s.S + BitVec.ofNat 64 ((m.length + 63) / 64)

/-- R158: when N1 is a multiple of 64, `transform` of N1 bytes and then of N2 bytes is one `transform` of N1 + N2. -/
def Obligations.TransformSplitsAtBlockBoundaries : Prop :=
  ∀ (s : State) (m₁ m₂ : List Byte), m₁.length % 64 = 0 → s.BUSY = false → s.VALID = true → s.EXH = false →
    (counter s.S).toNat + (m₁.length + m₂.length + 63) / 64 ≤ 2 ^ 64 →
    ∃ o₁ t o₂ u, transform m₁ s = some (o₁, t) ∧ transform m₂ t = some (o₂, u) ∧
      transform (m₁ ++ m₂) s = some (o₁ ++ o₂, u)

/-- R156: the round trip. From any idle unit with legal lengths, INIT, `transform`, INIT again and `transform` of the
result give back the bytes, for any bytes, up to the 2^64-block limit of R153. -/
def Obligations.TransformRoundTrip : Prop :=
  ∀ (s : State) (m : List Byte), s.BUSY = false → s.KLEN = 16#6 ∨ s.KLEN = 32#6 → s.NLEN = 8#4 →
    m.length ≤ 64 * 2 ^ 64 →
    ∃ s₁ c t s₂ u, runEdges (commandEdges .init) s = .next s₁ ∧ transform m s₁ = some (c, t) ∧
      runEdges (commandEdges .init) t = .next s₂ ∧ transform c s₂ = some (m, u)
end

