-- ==== Sys2Proof/Laws/Bits.lean ====
section
/-! SUPPORT. Bytes of words (00_scope.md R12; 20_memory.md R56, R57), header fields (30_encoding.md R71). -/

namespace Sys2Proof

theorem byteOf_getLsbD (w : Word) (j i : Nat) : (byteOf w j).getLsbD i = (decide (i < 8) && w.getLsbD (8 * j + i)) := by
  simp [byteOf, BitVec.getLsbD_extractLsb']

/-- The four bytes of `LE32(b0, b1, b2, b3)` (R12). -/
@[simp] theorem byteOf_le32_zero (b0 b1 b2 b3 : Byte) : byteOf (le32 b0 b1 b2 b3) 0 = b0 := by
  ext i hi
  interval_cases i <;> simp [byteOf, le32]

@[simp] theorem byteOf_le32_one (b0 b1 b2 b3 : Byte) : byteOf (le32 b0 b1 b2 b3) 1 = b1 := by
  ext i hi
  interval_cases i <;> simp [byteOf, le32]

@[simp] theorem byteOf_le32_two (b0 b1 b2 b3 : Byte) : byteOf (le32 b0 b1 b2 b3) 2 = b2 := by
  ext i hi
  interval_cases i <;> simp [byteOf, le32]

@[simp] theorem byteOf_le32_three (b0 b1 b2 b3 : Byte) : byteOf (le32 b0 b1 b2 b3) 3 = b3 := by
  ext i hi
  interval_cases i <;> simp [byteOf, le32]

/-- A word is `LE32` of its bytes (R12). -/
@[simp] theorem le32_byteOf (w : Word) : le32 (byteOf w 0) (byteOf w 1) (byteOf w 2) (byteOf w 3) = w := by
  ext i hi
  interval_cases i <;> simp [byteOf, le32]

/-- R57: the word-wise XOR is the byte-wise one. -/
@[simp] theorem byteOf_xor (v w : Word) (j : Nat) : byteOf (v ^^^ w) j = byteOf v j ^^^ byteOf w j := by
  ext i hi
  simp [byteOf]

@[simp] theorem byteOf_and (v w : Word) (j : Nat) : byteOf (v &&& w) j = byteOf v j &&& byteOf w j := by
  ext i hi
  simp [byteOf]

/-- R71: the fields of a header. -/
@[simp] theorem busHeader_we (we : BitVec 1) (a : BitVec 7) : (busHeader we a).extractLsb' 7 1 = we := by
  revert we a
  decide

@[simp] theorem busHeader_waddr (we : BitVec 1) (a : BitVec 7) : (busHeader we a).extractLsb' 0 7 = a := by
  revert we a
  decide

@[simp] theorem decodeBus_read (a : BitVec 7) (d : Word) : decodeBus (busHeader 0#1 a) d = .rd a := by
  simp [decodeBus]

@[simp] theorem decodeBus_write (a : BitVec 7) (d : Word) : decodeBus (busHeader 1#1 a) d = .wr a d := by
  simp [decodeBus]

/-- A transaction decodes to a read or a write and to nothing else. -/
theorem decodeBus_cases (h : Byte) (d : Word) : (∃ a, decodeBus h d = .rd a) ∨ ∃ a, decodeBus h d = .wr a d := by
  unfold decodeBus
  split
  · exact .inr ⟨_, rfl⟩
  · exact .inl ⟨_, rfl⟩

/-- A command word decodes to one of the six commands or is illegal (R76). -/
theorem decodeCmd_cases (v : Word) :
    (v = 0 ∧ decodeCmd v = .ok .nop) ∨ (v = 1 ∧ decodeCmd v = .ok .init) ∨ (v = 2 ∧ decodeCmd v = .ok .block) ∨
    (v = 3 ∧ decodeCmd v = .ok .hash) ∨ (v = 4 ∧ decodeCmd v = .ok .qr) ∨ (v = 5 ∧ decodeCmd v = .ok .clear) ∨
    (6 ≤ v.toNat ∧ decodeCmd v = .error (.illegalCommand v)) := by
  have hv := v.isLt
  have hhi : (v.extractLsb' 4 28).toNat = v.toNat / 16 := by
    simp [BitVec.extractLsb'_toNat, Nat.shiftRight_eq_div_pow]; omega
  have hlo : (v.extractLsb' 0 4).toNat = v.toNat % 16 := by
    simp [BitVec.extractLsb'_toNat]
  unfold decodeCmd
  by_cases h : v.extractLsb' 4 28 = 0
  · have hd : v.toNat / 16 = 0 := by rw [← hhi, h]; rfl
    have hm : v.toNat % 16 = v.toNat := by omega
    have hlt : v.toNat < 16 := by omega
    have hn (n : Nat) (hn : v.toNat = n) : v = BitVec.ofNat 32 n := by
      apply BitVec.eq_of_toNat_eq; simp; omega
    rw [hlo, hm]
    simp only [h, ne_eq, not_true_eq_false, if_false]
    generalize hk : v.toNat = k at *
    interval_cases k <;> simp [hn]
  · simp only [h, ne_eq, not_false_eq_true, if_true]
    have : v.toNat / 16 ≠ 0 := fun hz => h (BitVec.eq_of_toNat_eq (by rw [hhi, hz]; rfl))
    have : 6 ≤ v.toNat := by omega
    simp [this]

end Sys2Proof
end

