-- ==== Sys2Proof/Laws/State.lean ====
section
/-! SUPPORT. For every shared state update, what each field of the state is after it. -/

namespace Sys2Proof.Machine

/-! ### `finish` -/

@[simp] theorem finish_ROM (c : BitVec 4) (s : State) : (finish c s).ROM = s.ROM := rfl
@[simp] theorem finish_S (c : BitVec 4) (s : State) : (finish c s).S = s.S := rfl
@[simp] theorem finish_X (c : BitVec 4) (s : State) : (finish c s).X = s.X := rfl
@[simp] theorem finish_RIDX (c : BitVec 4) (s : State) : (finish c s).RIDX = s.RIDX := rfl
@[simp] theorem finish_PEND (c : BitVec 4) (s : State) : (finish c s).PEND = s.PEND := rfl
@[simp] theorem finish_KEY (c : BitVec 4) (s : State) : (finish c s).KEY = s.KEY := rfl
@[simp] theorem finish_NONCE (c : BitVec 4) (s : State) : (finish c s).NONCE = s.NONCE := rfl
@[simp] theorem finish_DIN (c : BitVec 4) (s : State) : (finish c s).DIN = s.DIN := rfl
@[simp] theorem finish_DOUT (c : BitVec 4) (s : State) : (finish c s).DOUT = s.DOUT := rfl
@[simp] theorem finish_QR (c : BitVec 4) (s : State) : (finish c s).QR = s.QR := rfl
@[simp] theorem finish_KLEN (c : BitVec 4) (s : State) : (finish c s).KLEN = s.KLEN := rfl
@[simp] theorem finish_NLEN (c : BitVec 4) (s : State) : (finish c s).NLEN = s.NLEN := rfl
@[simp] theorem finish_LEN (c : BitVec 4) (s : State) : (finish c s).LEN = s.LEN := rfl
@[simp] theorem finish_BUSY (c : BitVec 4) (s : State) : (finish c s).BUSY = false := rfl
@[simp] theorem finish_VALID (c : BitVec 4) (s : State) : (finish c s).VALID = s.VALID := rfl
@[simp] theorem finish_EXH (c : BitVec 4) (s : State) : (finish c s).EXH = s.EXH := rfl
@[simp] theorem finish_WERR (c : BitVec 4) (s : State) : (finish c s).WERR = s.WERR := rfl
@[simp] theorem finish_KSEL (c : BitVec 4) (s : State) : (finish c s).KSEL = s.KSEL := rfl
@[simp] theorem finish_ERR (c : BitVec 4) (s : State) : (finish c s).ERR = c := rfl
@[simp] theorem finish_inputs (c : BitVec 4) (s : State) : (finish c s).inputs = s.inputs := rfl
@[simp] theorem finish_reads (c : BitVec 4) (s : State) : (finish c s).reads = s.reads := rfl
@[simp] theorem finish_draws (c : BitVec 4) (s : State) : (finish c s).draws = s.draws := rfl

/-! ### `startCommand` -/

@[simp] theorem startCommand_ROM (v : Word) (s : State) : (startCommand v s).ROM = s.ROM := rfl
@[simp] theorem startCommand_S (v : Word) (s : State) : (startCommand v s).S = s.S := rfl
@[simp] theorem startCommand_X (v : Word) (s : State) : (startCommand v s).X = s.X := rfl
@[simp] theorem startCommand_RIDX (v : Word) (s : State) : (startCommand v s).RIDX = s.RIDX := rfl
@[simp] theorem startCommand_PEND (v : Word) (s : State) : (startCommand v s).PEND = v := rfl
@[simp] theorem startCommand_KEY (v : Word) (s : State) : (startCommand v s).KEY = s.KEY := rfl
@[simp] theorem startCommand_NONCE (v : Word) (s : State) : (startCommand v s).NONCE = s.NONCE := rfl
@[simp] theorem startCommand_DIN (v : Word) (s : State) : (startCommand v s).DIN = s.DIN := rfl
@[simp] theorem startCommand_DOUT (v : Word) (s : State) : (startCommand v s).DOUT = s.DOUT := rfl
@[simp] theorem startCommand_QR (v : Word) (s : State) : (startCommand v s).QR = s.QR := rfl
@[simp] theorem startCommand_KLEN (v : Word) (s : State) : (startCommand v s).KLEN = s.KLEN := rfl
@[simp] theorem startCommand_NLEN (v : Word) (s : State) : (startCommand v s).NLEN = s.NLEN := rfl
@[simp] theorem startCommand_LEN (v : Word) (s : State) : (startCommand v s).LEN = s.LEN := rfl
@[simp] theorem startCommand_BUSY (v : Word) (s : State) : (startCommand v s).BUSY = true := rfl
@[simp] theorem startCommand_VALID (v : Word) (s : State) : (startCommand v s).VALID = s.VALID := rfl
@[simp] theorem startCommand_EXH (v : Word) (s : State) : (startCommand v s).EXH = s.EXH := rfl
@[simp] theorem startCommand_WERR (v : Word) (s : State) : (startCommand v s).WERR = s.WERR := rfl
@[simp] theorem startCommand_KSEL (v : Word) (s : State) : (startCommand v s).KSEL = s.KSEL := rfl
@[simp] theorem startCommand_ERR (v : Word) (s : State) : (startCommand v s).ERR = s.ERR := rfl
@[simp] theorem startCommand_inputs (v : Word) (s : State) : (startCommand v s).inputs = s.inputs := rfl
@[simp] theorem startCommand_reads (v : Word) (s : State) : (startCommand v s).reads = s.reads := rfl
@[simp] theorem startCommand_draws (v : Word) (s : State) : (startCommand v s).draws = s.draws := rfl

/-! ### `dropWrite` -/

@[simp] theorem dropWrite_ROM (s : State) : (dropWrite s).ROM = s.ROM := rfl
@[simp] theorem dropWrite_S (s : State) : (dropWrite s).S = s.S := rfl
@[simp] theorem dropWrite_X (s : State) : (dropWrite s).X = s.X := rfl
@[simp] theorem dropWrite_RIDX (s : State) : (dropWrite s).RIDX = s.RIDX := rfl
@[simp] theorem dropWrite_PEND (s : State) : (dropWrite s).PEND = s.PEND := rfl
@[simp] theorem dropWrite_KEY (s : State) : (dropWrite s).KEY = s.KEY := rfl
@[simp] theorem dropWrite_NONCE (s : State) : (dropWrite s).NONCE = s.NONCE := rfl
@[simp] theorem dropWrite_DIN (s : State) : (dropWrite s).DIN = s.DIN := rfl
@[simp] theorem dropWrite_DOUT (s : State) : (dropWrite s).DOUT = s.DOUT := rfl
@[simp] theorem dropWrite_QR (s : State) : (dropWrite s).QR = s.QR := rfl
@[simp] theorem dropWrite_KLEN (s : State) : (dropWrite s).KLEN = s.KLEN := rfl
@[simp] theorem dropWrite_NLEN (s : State) : (dropWrite s).NLEN = s.NLEN := rfl
@[simp] theorem dropWrite_LEN (s : State) : (dropWrite s).LEN = s.LEN := rfl
@[simp] theorem dropWrite_BUSY (s : State) : (dropWrite s).BUSY = s.BUSY := rfl
@[simp] theorem dropWrite_VALID (s : State) : (dropWrite s).VALID = s.VALID := rfl
@[simp] theorem dropWrite_EXH (s : State) : (dropWrite s).EXH = s.EXH := rfl
@[simp] theorem dropWrite_WERR (s : State) : (dropWrite s).WERR = true := rfl
@[simp] theorem dropWrite_KSEL (s : State) : (dropWrite s).KSEL = s.KSEL := rfl
@[simp] theorem dropWrite_ERR (s : State) : (dropWrite s).ERR = s.ERR := rfl
@[simp] theorem dropWrite_inputs (s : State) : (dropWrite s).inputs = s.inputs := rfl
@[simp] theorem dropWrite_reads (s : State) : (dropWrite s).reads = s.reads := rfl
@[simp] theorem dropWrite_draws (s : State) : (dropWrite s).draws = s.draws := rfl

/-! ### `observe` -/

@[simp] theorem observe_ROM (v : Word) (s : State) : (observe v s).ROM = s.ROM := rfl
@[simp] theorem observe_S (v : Word) (s : State) : (observe v s).S = s.S := rfl
@[simp] theorem observe_X (v : Word) (s : State) : (observe v s).X = s.X := rfl
@[simp] theorem observe_RIDX (v : Word) (s : State) : (observe v s).RIDX = s.RIDX := rfl
@[simp] theorem observe_PEND (v : Word) (s : State) : (observe v s).PEND = s.PEND := rfl
@[simp] theorem observe_KEY (v : Word) (s : State) : (observe v s).KEY = s.KEY := rfl
@[simp] theorem observe_NONCE (v : Word) (s : State) : (observe v s).NONCE = s.NONCE := rfl
@[simp] theorem observe_DIN (v : Word) (s : State) : (observe v s).DIN = s.DIN := rfl
@[simp] theorem observe_DOUT (v : Word) (s : State) : (observe v s).DOUT = s.DOUT := rfl
@[simp] theorem observe_QR (v : Word) (s : State) : (observe v s).QR = s.QR := rfl
@[simp] theorem observe_KLEN (v : Word) (s : State) : (observe v s).KLEN = s.KLEN := rfl
@[simp] theorem observe_NLEN (v : Word) (s : State) : (observe v s).NLEN = s.NLEN := rfl
@[simp] theorem observe_LEN (v : Word) (s : State) : (observe v s).LEN = s.LEN := rfl
@[simp] theorem observe_BUSY (v : Word) (s : State) : (observe v s).BUSY = s.BUSY := rfl
@[simp] theorem observe_VALID (v : Word) (s : State) : (observe v s).VALID = s.VALID := rfl
@[simp] theorem observe_EXH (v : Word) (s : State) : (observe v s).EXH = s.EXH := rfl
@[simp] theorem observe_WERR (v : Word) (s : State) : (observe v s).WERR = s.WERR := rfl
@[simp] theorem observe_KSEL (v : Word) (s : State) : (observe v s).KSEL = s.KSEL := rfl
@[simp] theorem observe_ERR (v : Word) (s : State) : (observe v s).ERR = s.ERR := rfl
@[simp] theorem observe_inputs (v : Word) (s : State) : (observe v s).inputs = s.inputs := rfl
@[simp] theorem observe_reads (v : Word) (s : State) : (observe v s).reads = s.reads ++ [v] := rfl
@[simp] theorem observe_draws (v : Word) (s : State) : (observe v s).draws = s.draws := rfl

/-! ### `drawn` -/

@[simp] theorem drawn_ROM (s : State) : (drawn s).ROM = s.ROM := rfl
@[simp] theorem drawn_S (s : State) : (drawn s).S = s.S := rfl
@[simp] theorem drawn_X (s : State) : (drawn s).X = s.X := rfl
@[simp] theorem drawn_RIDX (s : State) : (drawn s).RIDX = s.RIDX := rfl
@[simp] theorem drawn_PEND (s : State) : (drawn s).PEND = s.PEND := rfl
@[simp] theorem drawn_KEY (s : State) : (drawn s).KEY = s.KEY := rfl
@[simp] theorem drawn_NONCE (s : State) : (drawn s).NONCE = s.NONCE := rfl
@[simp] theorem drawn_DIN (s : State) : (drawn s).DIN = s.DIN := rfl
@[simp] theorem drawn_DOUT (s : State) : (drawn s).DOUT = s.DOUT := rfl
@[simp] theorem drawn_QR (s : State) : (drawn s).QR = s.QR := rfl
@[simp] theorem drawn_KLEN (s : State) : (drawn s).KLEN = s.KLEN := rfl
@[simp] theorem drawn_NLEN (s : State) : (drawn s).NLEN = s.NLEN := rfl
@[simp] theorem drawn_LEN (s : State) : (drawn s).LEN = s.LEN := rfl
@[simp] theorem drawn_BUSY (s : State) : (drawn s).BUSY = s.BUSY := rfl
@[simp] theorem drawn_VALID (s : State) : (drawn s).VALID = s.VALID := rfl
@[simp] theorem drawn_EXH (s : State) : (drawn s).EXH = s.EXH := rfl
@[simp] theorem drawn_WERR (s : State) : (drawn s).WERR = s.WERR := rfl
@[simp] theorem drawn_KSEL (s : State) : (drawn s).KSEL = s.KSEL := rfl
@[simp] theorem drawn_ERR (s : State) : (drawn s).ERR = s.ERR := rfl
@[simp] theorem drawn_inputs (s : State) : (drawn s).inputs = s.inputs := rfl
@[simp] theorem drawn_reads (s : State) : (drawn s).reads = s.reads := rfl
@[simp] theorem drawn_draws (s : State) : (drawn s).draws = s.draws + 1 := rfl

/-! ### `seqStart` -/

@[simp] theorem seqStart_ROM (s : State) : (seqStart s).ROM = s.ROM := rfl
@[simp] theorem seqStart_S (s : State) : (seqStart s).S = s.S := rfl
@[simp] theorem seqStart_X (s : State) : (seqStart s).X = s.S := rfl
@[simp] theorem seqStart_RIDX (s : State) : (seqStart s).RIDX = 0 := rfl
@[simp] theorem seqStart_PEND (s : State) : (seqStart s).PEND = s.PEND := rfl
@[simp] theorem seqStart_KEY (s : State) : (seqStart s).KEY = s.KEY := rfl
@[simp] theorem seqStart_NONCE (s : State) : (seqStart s).NONCE = s.NONCE := rfl
@[simp] theorem seqStart_DIN (s : State) : (seqStart s).DIN = s.DIN := rfl
@[simp] theorem seqStart_DOUT (s : State) : (seqStart s).DOUT = s.DOUT := rfl
@[simp] theorem seqStart_QR (s : State) : (seqStart s).QR = s.QR := rfl
@[simp] theorem seqStart_KLEN (s : State) : (seqStart s).KLEN = s.KLEN := rfl
@[simp] theorem seqStart_NLEN (s : State) : (seqStart s).NLEN = s.NLEN := rfl
@[simp] theorem seqStart_LEN (s : State) : (seqStart s).LEN = s.LEN := rfl
@[simp] theorem seqStart_BUSY (s : State) : (seqStart s).BUSY = s.BUSY := rfl
@[simp] theorem seqStart_VALID (s : State) : (seqStart s).VALID = s.VALID := rfl
@[simp] theorem seqStart_EXH (s : State) : (seqStart s).EXH = s.EXH := rfl
@[simp] theorem seqStart_WERR (s : State) : (seqStart s).WERR = s.WERR := rfl
@[simp] theorem seqStart_KSEL (s : State) : (seqStart s).KSEL = s.KSEL := rfl
@[simp] theorem seqStart_ERR (s : State) : (seqStart s).ERR = s.ERR := rfl
@[simp] theorem seqStart_inputs (s : State) : (seqStart s).inputs = s.inputs := rfl
@[simp] theorem seqStart_reads (s : State) : (seqStart s).reads = s.reads := rfl
@[simp] theorem seqStart_draws (s : State) : (seqStart s).draws = s.draws := rfl

/-! ### `releaseSequencer` -/

@[simp] theorem releaseSequencer_ROM (s : State) : (releaseSequencer s).ROM = s.ROM := rfl
@[simp] theorem releaseSequencer_S (s : State) : (releaseSequencer s).S = s.S := rfl
@[simp] theorem releaseSequencer_X (s : State) : (releaseSequencer s).X = Config.hiddenX s.draws := rfl
@[simp] theorem releaseSequencer_RIDX (s : State) : (releaseSequencer s).RIDX = Config.hiddenRIDX s.draws := rfl
@[simp] theorem releaseSequencer_PEND (s : State) : (releaseSequencer s).PEND = s.PEND := rfl
@[simp] theorem releaseSequencer_KEY (s : State) : (releaseSequencer s).KEY = s.KEY := rfl
@[simp] theorem releaseSequencer_NONCE (s : State) : (releaseSequencer s).NONCE = s.NONCE := rfl
@[simp] theorem releaseSequencer_DIN (s : State) : (releaseSequencer s).DIN = s.DIN := rfl
@[simp] theorem releaseSequencer_DOUT (s : State) : (releaseSequencer s).DOUT = s.DOUT := rfl
@[simp] theorem releaseSequencer_QR (s : State) : (releaseSequencer s).QR = s.QR := rfl
@[simp] theorem releaseSequencer_KLEN (s : State) : (releaseSequencer s).KLEN = s.KLEN := rfl
@[simp] theorem releaseSequencer_NLEN (s : State) : (releaseSequencer s).NLEN = s.NLEN := rfl
@[simp] theorem releaseSequencer_LEN (s : State) : (releaseSequencer s).LEN = s.LEN := rfl
@[simp] theorem releaseSequencer_BUSY (s : State) : (releaseSequencer s).BUSY = s.BUSY := rfl
@[simp] theorem releaseSequencer_VALID (s : State) : (releaseSequencer s).VALID = s.VALID := rfl
@[simp] theorem releaseSequencer_EXH (s : State) : (releaseSequencer s).EXH = s.EXH := rfl
@[simp] theorem releaseSequencer_WERR (s : State) : (releaseSequencer s).WERR = s.WERR := rfl
@[simp] theorem releaseSequencer_KSEL (s : State) : (releaseSequencer s).KSEL = s.KSEL := rfl
@[simp] theorem releaseSequencer_ERR (s : State) : (releaseSequencer s).ERR = s.ERR := rfl
@[simp] theorem releaseSequencer_inputs (s : State) : (releaseSequencer s).inputs = s.inputs := rfl
@[simp] theorem releaseSequencer_reads (s : State) : (releaseSequencer s).reads = s.reads := rfl
@[simp] theorem releaseSequencer_draws (s : State) : (releaseSequencer s).draws = s.draws + 1 := rfl

/-! ### `counterIncrement` -/

@[simp] theorem counterIncrement_ROM (s : State) : (counterIncrement s).ROM = s.ROM := rfl
@[simp] theorem counterIncrement_X (s : State) : (counterIncrement s).X = s.X := rfl
@[simp] theorem counterIncrement_RIDX (s : State) : (counterIncrement s).RIDX = s.RIDX := rfl
@[simp] theorem counterIncrement_PEND (s : State) : (counterIncrement s).PEND = s.PEND := rfl
@[simp] theorem counterIncrement_KEY (s : State) : (counterIncrement s).KEY = s.KEY := rfl
@[simp] theorem counterIncrement_NONCE (s : State) : (counterIncrement s).NONCE = s.NONCE := rfl
@[simp] theorem counterIncrement_DIN (s : State) : (counterIncrement s).DIN = s.DIN := rfl
@[simp] theorem counterIncrement_DOUT (s : State) : (counterIncrement s).DOUT = s.DOUT := rfl
@[simp] theorem counterIncrement_QR (s : State) : (counterIncrement s).QR = s.QR := rfl
@[simp] theorem counterIncrement_KLEN (s : State) : (counterIncrement s).KLEN = s.KLEN := rfl
@[simp] theorem counterIncrement_NLEN (s : State) : (counterIncrement s).NLEN = s.NLEN := rfl
@[simp] theorem counterIncrement_LEN (s : State) : (counterIncrement s).LEN = s.LEN := rfl
@[simp] theorem counterIncrement_BUSY (s : State) : (counterIncrement s).BUSY = s.BUSY := rfl
@[simp] theorem counterIncrement_VALID (s : State) : (counterIncrement s).VALID = s.VALID := rfl
@[simp] theorem counterIncrement_WERR (s : State) : (counterIncrement s).WERR = s.WERR := rfl
@[simp] theorem counterIncrement_KSEL (s : State) : (counterIncrement s).KSEL = s.KSEL := rfl
@[simp] theorem counterIncrement_ERR (s : State) : (counterIncrement s).ERR = s.ERR := rfl
@[simp] theorem counterIncrement_inputs (s : State) : (counterIncrement s).inputs = s.inputs := rfl
@[simp] theorem counterIncrement_reads (s : State) : (counterIncrement s).reads = s.reads := rfl
@[simp] theorem counterIncrement_draws (s : State) : (counterIncrement s).draws = s.draws := rfl

/-! ### `writeCtrl` -/

@[simp] theorem writeCtrl_ROM (v : Word) (s : State) : (writeCtrl v s).ROM = s.ROM := rfl
@[simp] theorem writeCtrl_S (v : Word) (s : State) : (writeCtrl v s).S = s.S := rfl
@[simp] theorem writeCtrl_X (v : Word) (s : State) : (writeCtrl v s).X = s.X := rfl
@[simp] theorem writeCtrl_RIDX (v : Word) (s : State) : (writeCtrl v s).RIDX = s.RIDX := rfl
@[simp] theorem writeCtrl_PEND (v : Word) (s : State) : (writeCtrl v s).PEND = s.PEND := rfl
@[simp] theorem writeCtrl_KEY (v : Word) (s : State) : (writeCtrl v s).KEY = s.KEY := rfl
@[simp] theorem writeCtrl_NONCE (v : Word) (s : State) : (writeCtrl v s).NONCE = s.NONCE := rfl
@[simp] theorem writeCtrl_DIN (v : Word) (s : State) : (writeCtrl v s).DIN = s.DIN := rfl
@[simp] theorem writeCtrl_DOUT (v : Word) (s : State) : (writeCtrl v s).DOUT = s.DOUT := rfl
@[simp] theorem writeCtrl_QR (v : Word) (s : State) : (writeCtrl v s).QR = s.QR := rfl
@[simp] theorem writeCtrl_KLEN (v : Word) (s : State) : (writeCtrl v s).KLEN = v.extractLsb' 0 6 := rfl
@[simp] theorem writeCtrl_NLEN (v : Word) (s : State) : (writeCtrl v s).NLEN = v.extractLsb' 8 4 := rfl
@[simp] theorem writeCtrl_LEN (v : Word) (s : State) : (writeCtrl v s).LEN = s.LEN := rfl
@[simp] theorem writeCtrl_BUSY (v : Word) (s : State) : (writeCtrl v s).BUSY = s.BUSY := rfl
@[simp] theorem writeCtrl_VALID (v : Word) (s : State) : (writeCtrl v s).VALID = s.VALID := rfl
@[simp] theorem writeCtrl_EXH (v : Word) (s : State) : (writeCtrl v s).EXH = s.EXH := rfl
@[simp] theorem writeCtrl_WERR (v : Word) (s : State) : (writeCtrl v s).WERR = s.WERR := rfl
@[simp] theorem writeCtrl_KSEL (v : Word) (s : State) : (writeCtrl v s).KSEL = s.KSEL := rfl
@[simp] theorem writeCtrl_ERR (v : Word) (s : State) : (writeCtrl v s).ERR = s.ERR := rfl
@[simp] theorem writeCtrl_inputs (v : Word) (s : State) : (writeCtrl v s).inputs = s.inputs := rfl
@[simp] theorem writeCtrl_reads (v : Word) (s : State) : (writeCtrl v s).reads = s.reads := rfl
@[simp] theorem writeCtrl_draws (v : Word) (s : State) : (writeCtrl v s).draws = s.draws := rfl

/-! ### `writeDlen` -/

@[simp] theorem writeDlen_ROM (v : Word) (s : State) : (writeDlen v s).ROM = s.ROM := rfl
@[simp] theorem writeDlen_S (v : Word) (s : State) : (writeDlen v s).S = s.S := rfl
@[simp] theorem writeDlen_X (v : Word) (s : State) : (writeDlen v s).X = s.X := rfl
@[simp] theorem writeDlen_RIDX (v : Word) (s : State) : (writeDlen v s).RIDX = s.RIDX := rfl
@[simp] theorem writeDlen_PEND (v : Word) (s : State) : (writeDlen v s).PEND = s.PEND := rfl
@[simp] theorem writeDlen_KEY (v : Word) (s : State) : (writeDlen v s).KEY = s.KEY := rfl
@[simp] theorem writeDlen_NONCE (v : Word) (s : State) : (writeDlen v s).NONCE = s.NONCE := rfl
@[simp] theorem writeDlen_DIN (v : Word) (s : State) : (writeDlen v s).DIN = s.DIN := rfl
@[simp] theorem writeDlen_DOUT (v : Word) (s : State) : (writeDlen v s).DOUT = s.DOUT := rfl
@[simp] theorem writeDlen_QR (v : Word) (s : State) : (writeDlen v s).QR = s.QR := rfl
@[simp] theorem writeDlen_KLEN (v : Word) (s : State) : (writeDlen v s).KLEN = s.KLEN := rfl
@[simp] theorem writeDlen_NLEN (v : Word) (s : State) : (writeDlen v s).NLEN = s.NLEN := rfl
@[simp] theorem writeDlen_LEN (v : Word) (s : State) : (writeDlen v s).LEN = v.extractLsb' 0 7 := rfl
@[simp] theorem writeDlen_BUSY (v : Word) (s : State) : (writeDlen v s).BUSY = s.BUSY := rfl
@[simp] theorem writeDlen_VALID (v : Word) (s : State) : (writeDlen v s).VALID = s.VALID := rfl
@[simp] theorem writeDlen_EXH (v : Word) (s : State) : (writeDlen v s).EXH = s.EXH := rfl
@[simp] theorem writeDlen_WERR (v : Word) (s : State) : (writeDlen v s).WERR = s.WERR := rfl
@[simp] theorem writeDlen_KSEL (v : Word) (s : State) : (writeDlen v s).KSEL = s.KSEL := rfl
@[simp] theorem writeDlen_ERR (v : Word) (s : State) : (writeDlen v s).ERR = s.ERR := rfl
@[simp] theorem writeDlen_inputs (v : Word) (s : State) : (writeDlen v s).inputs = s.inputs := rfl
@[simp] theorem writeDlen_reads (v : Word) (s : State) : (writeDlen v s).reads = s.reads := rfl
@[simp] theorem writeDlen_draws (v : Word) (s : State) : (writeDlen v s).draws = s.draws := rfl

/-! ### `writeStatus` -/

@[simp] theorem writeStatus_ROM (v : Word) (s : State) : (writeStatus v s).ROM = s.ROM := rfl
@[simp] theorem writeStatus_S (v : Word) (s : State) : (writeStatus v s).S = s.S := rfl
@[simp] theorem writeStatus_X (v : Word) (s : State) : (writeStatus v s).X = s.X := rfl
@[simp] theorem writeStatus_RIDX (v : Word) (s : State) : (writeStatus v s).RIDX = s.RIDX := rfl
@[simp] theorem writeStatus_PEND (v : Word) (s : State) : (writeStatus v s).PEND = s.PEND := rfl
@[simp] theorem writeStatus_KEY (v : Word) (s : State) : (writeStatus v s).KEY = s.KEY := rfl
@[simp] theorem writeStatus_NONCE (v : Word) (s : State) : (writeStatus v s).NONCE = s.NONCE := rfl
@[simp] theorem writeStatus_DIN (v : Word) (s : State) : (writeStatus v s).DIN = s.DIN := rfl
@[simp] theorem writeStatus_DOUT (v : Word) (s : State) : (writeStatus v s).DOUT = s.DOUT := rfl
@[simp] theorem writeStatus_QR (v : Word) (s : State) : (writeStatus v s).QR = s.QR := rfl
@[simp] theorem writeStatus_KLEN (v : Word) (s : State) : (writeStatus v s).KLEN = s.KLEN := rfl
@[simp] theorem writeStatus_NLEN (v : Word) (s : State) : (writeStatus v s).NLEN = s.NLEN := rfl
@[simp] theorem writeStatus_LEN (v : Word) (s : State) : (writeStatus v s).LEN = s.LEN := rfl
@[simp] theorem writeStatus_BUSY (v : Word) (s : State) : (writeStatus v s).BUSY = s.BUSY := rfl
@[simp] theorem writeStatus_VALID (v : Word) (s : State) : (writeStatus v s).VALID = s.VALID := rfl
@[simp] theorem writeStatus_EXH (v : Word) (s : State) : (writeStatus v s).EXH = s.EXH := rfl
@[simp] theorem writeStatus_WERR (v : Word) (s : State) : (writeStatus v s).WERR = if v.getLsbD 3 then false else s.WERR := rfl
@[simp] theorem writeStatus_KSEL (v : Word) (s : State) : (writeStatus v s).KSEL = s.KSEL := rfl
@[simp] theorem writeStatus_ERR (v : Word) (s : State) : (writeStatus v s).ERR = s.ERR := rfl
@[simp] theorem writeStatus_inputs (v : Word) (s : State) : (writeStatus v s).inputs = s.inputs := rfl
@[simp] theorem writeStatus_reads (v : Word) (s : State) : (writeStatus v s).reads = s.reads := rfl
@[simp] theorem writeStatus_draws (v : Word) (s : State) : (writeStatus v s).draws = s.draws := rfl

/-! ### `settleClearRace` -/

@[simp] theorem settleClearRace_ROM (s : State) : (settleClearRace s).ROM = s.ROM := rfl
@[simp] theorem settleClearRace_S (s : State) : (settleClearRace s).S = s.S := rfl
@[simp] theorem settleClearRace_X (s : State) : (settleClearRace s).X = s.X := rfl
@[simp] theorem settleClearRace_RIDX (s : State) : (settleClearRace s).RIDX = s.RIDX := rfl
@[simp] theorem settleClearRace_PEND (s : State) : (settleClearRace s).PEND = s.PEND := rfl
@[simp] theorem settleClearRace_KEY (s : State) : (settleClearRace s).KEY = s.KEY := rfl
@[simp] theorem settleClearRace_NONCE (s : State) : (settleClearRace s).NONCE = s.NONCE := rfl
@[simp] theorem settleClearRace_DIN (s : State) : (settleClearRace s).DIN = s.DIN := rfl
@[simp] theorem settleClearRace_DOUT (s : State) : (settleClearRace s).DOUT = s.DOUT := rfl
@[simp] theorem settleClearRace_QR (s : State) : (settleClearRace s).QR = s.QR := rfl
@[simp] theorem settleClearRace_KLEN (s : State) : (settleClearRace s).KLEN = s.KLEN := rfl
@[simp] theorem settleClearRace_NLEN (s : State) : (settleClearRace s).NLEN = s.NLEN := rfl
@[simp] theorem settleClearRace_LEN (s : State) : (settleClearRace s).LEN = s.LEN := rfl
@[simp] theorem settleClearRace_BUSY (s : State) : (settleClearRace s).BUSY = s.BUSY := rfl
@[simp] theorem settleClearRace_VALID (s : State) : (settleClearRace s).VALID = s.VALID := rfl
@[simp] theorem settleClearRace_EXH (s : State) : (settleClearRace s).EXH = s.EXH := rfl
@[simp] theorem settleClearRace_WERR (s : State) : (settleClearRace s).WERR = Config.clearRaceWERR s.draws := rfl
@[simp] theorem settleClearRace_KSEL (s : State) : (settleClearRace s).KSEL = s.KSEL := rfl
@[simp] theorem settleClearRace_ERR (s : State) : (settleClearRace s).ERR = s.ERR := rfl
@[simp] theorem settleClearRace_inputs (s : State) : (settleClearRace s).inputs = s.inputs := rfl
@[simp] theorem settleClearRace_reads (s : State) : (settleClearRace s).reads = s.reads := rfl
@[simp] theorem settleClearRace_draws (s : State) : (settleClearRace s).draws = s.draws + 1 := rfl

/-! ### `takeInput` -/

@[simp] theorem takeInput_ROM (s : State) : (takeInput s).ROM = s.ROM := rfl
@[simp] theorem takeInput_S (s : State) : (takeInput s).S = s.S := rfl
@[simp] theorem takeInput_X (s : State) : (takeInput s).X = s.X := rfl
@[simp] theorem takeInput_RIDX (s : State) : (takeInput s).RIDX = s.RIDX := rfl
@[simp] theorem takeInput_PEND (s : State) : (takeInput s).PEND = s.PEND := rfl
@[simp] theorem takeInput_KEY (s : State) : (takeInput s).KEY = s.KEY := rfl
@[simp] theorem takeInput_NONCE (s : State) : (takeInput s).NONCE = s.NONCE := rfl
@[simp] theorem takeInput_DIN (s : State) : (takeInput s).DIN = s.DIN := rfl
@[simp] theorem takeInput_DOUT (s : State) : (takeInput s).DOUT = s.DOUT := rfl
@[simp] theorem takeInput_QR (s : State) : (takeInput s).QR = s.QR := rfl
@[simp] theorem takeInput_KLEN (s : State) : (takeInput s).KLEN = s.KLEN := rfl
@[simp] theorem takeInput_NLEN (s : State) : (takeInput s).NLEN = s.NLEN := rfl
@[simp] theorem takeInput_LEN (s : State) : (takeInput s).LEN = s.LEN := rfl
@[simp] theorem takeInput_BUSY (s : State) : (takeInput s).BUSY = s.BUSY := rfl
@[simp] theorem takeInput_VALID (s : State) : (takeInput s).VALID = s.VALID := rfl
@[simp] theorem takeInput_EXH (s : State) : (takeInput s).EXH = s.EXH := rfl
@[simp] theorem takeInput_WERR (s : State) : (takeInput s).WERR = s.WERR := rfl
@[simp] theorem takeInput_KSEL (s : State) : (takeInput s).KSEL = s.KSEL := rfl
@[simp] theorem takeInput_ERR (s : State) : (takeInput s).ERR = s.ERR := rfl
@[simp] theorem takeInput_inputs (s : State) : (takeInput s).inputs = s.inputs.tail := rfl
@[simp] theorem takeInput_reads (s : State) : (takeInput s).reads = s.reads := rfl
@[simp] theorem takeInput_draws (s : State) : (takeInput s).draws = s.draws := rfl

/-- `complete` is `finish` with code 0. -/
@[simp] theorem complete_eq (s : State) : complete s = finish 0 s := rfl

/-- `raiseError` is `finish` with the error's code. -/
@[simp] theorem raiseError_eq (e : ErrorCode) (s : State) : raiseError e s = finish e.code s := rfl

end Sys2Proof.Machine
end

