-- ==== Sys2Proof/Laws/Ops.lean ====
section
/-! SUPPORT. For each shared operation, one lemma that says what it can do. -/

namespace Sys2Proof.Machine

/-- The sequencer's loop writes `X` and `RIDX` only (R25, R26). -/
theorem seqRounds_frame (n : Nat) (s : State) : ∃ x r, seqRounds n s = { s with X := x, RIDX := r } := by
  induction n generalizing s with
  | zero => exact ⟨s.X, s.RIDX, rfl⟩
  | succ n ih =>
    obtain ⟨x, r, h⟩ := ih (seqRound s)
    refine ⟨x, r, ?_⟩
    rw [seqRounds, h, seqRound]
    split <;> rfl

/-- The whole sequencer writes `X` and `RIDX` only. -/
theorem runSequencer_frame (s : State) : ∃ x r, runSequencer s = { s with X := x, RIDX := r } := by
  obtain ⟨x, r, h⟩ := seqRounds_frame 20 (seqStart s)
  exact ⟨x, r, by rw [runSequencer, h]; rfl⟩

/-- A read while busy gives the host one word and changes no register (R178). -/
theorem busyReadReg_frame (r : Reg) (s : State) :
    ∃ v n, busyReadReg r s = { s with reads := s.reads ++ [v], draws := n } := by
  cases r <;> exact ⟨_, _, rfl⟩

/-- A read while busy of any word but STATUS, CMD and the reserved ones is the next draw (R178). -/
theorem busyReadReg_free {r : Reg} (s : State) (h1 : r ≠ .cmd) (h2 : r ≠ .reserved) (h3 : r ≠ .status) :
    busyReadReg r s = { s with reads := s.reads ++ [Config.busyRead s.draws], draws := s.draws + 1 } := by
  cases r <;> first | rfl | contradiction

/-- What a write while idle can change: the read/write registers, WERR, and through CMD the engine (R54). -/
theorem writeReg_frame (r : Reg) (v : Word) (s : State) :
    ∃ kl nl len key non qr din werr pend busy,
      writeReg r v s = { s with
        KLEN := kl, NLEN := nl, LEN := len, KEY := key, NONCE := non, QR := qr, DIN := din
        WERR := werr, PEND := pend, BUSY := busy } ∧
      (r ≠ .cmd → pend = s.PEND ∧ busy = s.BUSY) ∧ (r = .cmd → pend = v ∧ busy = true) ∧
      (r ≠ .status → werr = s.WERR) := by
  cases r <;> exact ⟨_, _, _, _, _, _, _, _, _, _, rfl, by simp, by simp, by simp⟩

/-- Every register name but `reserved` is where the map says it is (R50). -/
theorem regOf_waddr (r : Reg) : regOf (waddr r) = r := by
  cases r with
  | key i => revert i; decide
  | nonce i => revert i; decide
  | qr i => revert i; decide
  | din i => revert i; decide
  | dout i => revert i; decide
  | state i => revert i; decide
  | _ => decide

/-- Word 1, and no other, is CMD (R50). -/
theorem regOf_eq_cmd (a : BitVec 7) : regOf a = .cmd ↔ a = 1 := by
  revert a; decide

/-- Word 2, and no other, is STATUS (R50). -/
theorem regOf_eq_status (a : BitVec 7) : regOf a = .status ↔ a = 2 := by
  revert a; decide

/-- The increment moves only `S` and EXH (R152). -/
theorem counterIncrement_frame (s : State) :
    ∃ S' e, counterIncrement s = { s with S := S', EXH := e } := ⟨_, _, rfl⟩

end Sys2Proof.Machine
end

