-- ==== Sys2Proof/Laws/PerInstr.lean ====
section
/-! SUPPORT. The family EncodedSize: both formats have a fixed length (30_encoding.md R77). -/

namespace Sys2Proof.Laws.EncodedSize

/-- R77: a `CMD32` is always 32 bits; a `BUS` transaction is one header, plus one data word for a write. -/
def Statement (i : Instr) : Prop :=
  (i.format = .cmd32 → (encode i).length = 4) ∧
  (i.format = .bus → (encode i).length = 1 ∨ (encode i).length = 5)

theorem nop : Statement .nop := by simp [Statement, encode, wordBytes, Instr.format]
theorem init : Statement .init := by simp [Statement, encode, wordBytes, Instr.format]
theorem block : Statement .block := by simp [Statement, encode, wordBytes, Instr.format]
theorem hash : Statement .hash := by simp [Statement, encode, wordBytes, Instr.format]
theorem qr : Statement .qr := by simp [Statement, encode, wordBytes, Instr.format]
theorem clear : Statement .clear := by simp [Statement, encode, wordBytes, Instr.format]
theorem rd (a : BitVec 7) : Statement (.rd a) := by simp [Statement, encode, Instr.format]
theorem wr (a : BitVec 7) (d : Word) : Statement (.wr a d) := by simp [Statement, encode, wordBytes, Instr.format]

end Sys2Proof.Laws.EncodedSize
end

