-- ==== Sys2Proof/Laws/Step.lean ====
section
/-! SUPPORT. What each meaning and one step can do: inversion lemmas to be cited instead of unfolding. -/

namespace Sys2Proof.Machine

/-! ### The meanings -/

/-- Every instruction gives a next state, on every state. -/
theorem exec_next (i : Instr) (s : State) : ∃ t, exec i s = .next t := by
  cases i with
  | nop => exact ⟨_, rfl⟩
  | init => simp only [exec, execInit]; split_ifs <;> exact ⟨_, rfl⟩
  | block => simp only [exec, execBlock]; split_ifs <;> exact ⟨_, rfl⟩
  | hash => simp only [exec, execHash]; split_ifs <;> exact ⟨_, rfl⟩
  | qr => exact ⟨_, rfl⟩
  | clear => exact ⟨_, rfl⟩
  | rd a => simp only [exec, execRd]; split_ifs <;> exact ⟨_, rfl⟩
  | wr a v => simp only [exec, execWr]; split_ifs <;> exact ⟨_, rfl⟩

/-- INIT reports code 1 or 2 and does nothing else, or builds the state (R103). -/
theorem exec_init_cases {s t : State} (h : exec .init s = .next t) :
    (s.KLEN ≠ 16#6 ∧ s.KLEN ≠ 32#6 ∧ t = finish 1 s) ∨
    ((s.KLEN = 16#6 ∨ s.KLEN = 32#6) ∧ s.NLEN ≠ 8#4 ∧ t = finish 2 s) ∨
    ((s.KLEN = 16#6 ∨ s.KLEN = 32#6) ∧ s.NLEN = 8#4 ∧
      t = finish 0 { s with
        S := initialLayout (selectConstants s.KLEN s.ROM) s.KEY (secondQuadrant s.KLEN s.KEY) s.NONCE
        VALID := true, EXH := false, KSEL := decide (s.KLEN = 16#6) }) := by
  simp only [exec, execInit] at h
  split_ifs at h with h1 h2
  · left; cases h; exact ⟨h1.1, h1.2, rfl⟩
  · right; left; cases h; exact ⟨by tauto, h2, rfl⟩
  · right; right; cases h; exact ⟨by tauto, by tauto, rfl⟩

/-- HASH reports code 3 or 5 and does nothing else, or writes DOUT (R136). -/
theorem exec_hash_cases {s t : State} (h : exec .hash s = .next t) :
    (s.VALID = false ∧ t = finish 3 s) ∨ (s.VALID = true ∧ s.EXH = true ∧ t = finish 5 s) ∨
    (s.VALID = true ∧ s.EXH = false ∧ ∃ x r,
      t = finish 0 { s with DOUT := seqFinal (runSequencer s), X := x, RIDX := r, draws := s.draws + 1 }) := by
  simp only [exec, execHash] at h
  split_ifs at h with h1 h2
  · left; cases h; exact ⟨h1, rfl⟩
  · right; left; cases h; exact ⟨by simpa using h1, h2, rfl⟩
  · right; right
    obtain ⟨x, r, hx⟩ := runSequencer_frame s
    refine ⟨by simpa using h1, by simpa using h2, ?_⟩
    rw [← Host.Outcome.next.inj h]
    generalize runSequencer s = w at hx ⊢
    subst hx
    exact ⟨Config.hiddenX s.draws, Config.hiddenRIDX s.draws, rfl⟩

/-- BLOCK reports code 3, 5 or 4 and does nothing else, or clears DOUT (length 0), or produces a block and increments the
counter (R150). -/
theorem exec_block_cases {s t : State} (h : exec .block s = .next t) :
    (s.VALID = false ∧ t = finish 3 s) ∨ (s.VALID = true ∧ s.EXH = true ∧ t = finish 5 s) ∨
    (s.VALID = true ∧ s.EXH = false ∧ 64 < s.LEN.toNat ∧ t = finish 4 s) ∨
    (s.VALID = true ∧ s.EXH = false ∧ s.LEN.toNat = 0 ∧ t = finish 0 { s with DOUT := Vector.replicate 16 0 }) ∨
    (s.VALID = true ∧ s.EXH = false ∧ 1 ≤ s.LEN.toNat ∧ s.LEN.toNat ≤ 64 ∧ ∃ x r,
      t = finish 0 { s with
        DOUT := xorChunk s.DIN (seqFinal (runSequencer s)) s.LEN.toNat
        S := (counterIncrement s).S, EXH := (counterIncrement s).EXH
        X := x, RIDX := r, draws := s.draws + 1 }) := by
  simp only [exec, execBlock] at h
  split_ifs at h with h1 h2 h3 h4
  · left; cases h; exact ⟨h1, rfl⟩
  · right; left; cases h; exact ⟨by simpa using h1, h2, rfl⟩
  · right; right; left; cases h; exact ⟨by simpa using h1, by simpa using h2, h3, rfl⟩
  · right; right; right; left; cases h; exact ⟨by simpa using h1, by simpa using h2, h4, rfl⟩
  · right; right; right; right
    obtain ⟨x, r, hx⟩ := runSequencer_frame s
    refine ⟨by simpa using h1, by simpa using h2, by omega, by omega, ?_⟩
    rw [← Host.Outcome.next.inj h]
    generalize runSequencer s = w at hx ⊢
    subst hx
    exact ⟨Config.hiddenX s.draws, Config.hiddenRIDX s.draws, rfl⟩

/-- QR writes the QR registers (R135). -/
theorem exec_qr_eq {s t : State} (h : exec .qr s = .next t) : ∃ q, t = finish 0 { s with QR := q } := by
  simp only [exec, execQr] at h
  exact ⟨_, (Host.Outcome.next.inj h).symm⟩

/-- CLEAR zeroes (R105). -/
theorem exec_clear_eq {s t : State} (h : exec .clear s = .next t) :
    t = finish 0 { s with
      S := Vector.replicate 16 0, KEY := Vector.replicate 8 0, NONCE := Vector.replicate 2 0
      DIN := Vector.replicate 16 0, DOUT := Vector.replicate 16 0, QR := Vector.replicate 4 0
      VALID := false, EXH := false, WERR := false, KSEL := false } := by
  simp only [exec, execClear] at h
  exact (Host.Outcome.next.inj h).symm

/-- A bus transaction while BUSY = 1 changes nothing but WERR and what the host reads: a write sets WERR, a read does not
(R177, R178). -/
theorem exec_bus_busy {s u : State} {h : Byte} {d : Word} (hb : s.BUSY = true) (hu : exec (decodeBus h d) s = .next u) :
    (∃ a v, decodeBus h d = .wr a v ∧ u = { s with WERR := true }) ∨
    (∃ a, decodeBus h d = .rd a ∧ ∃ w n, u = { s with reads := s.reads ++ [w], draws := n }) := by
  rcases decodeBus_cases h d with ⟨a, ha⟩ | ⟨a, ha⟩
  · right
    rw [ha] at hu
    obtain ⟨v, n, hv⟩ := busyReadReg_frame (regOf a) s
    simp only [exec, execRd, hb, if_true, hv] at hu
    cases hu
    exact ⟨a, ha, v, n, by simp [hb]⟩
  · left
    rw [ha] at hu
    simp only [exec, execWr, hb, if_true] at hu
    cases hu
    exact ⟨a, d, ha, by simp [dropWrite, hb]⟩

/-- A bus transaction while BUSY = 0: a read gives the host a word and changes nothing else; a write does what
`writeReg` does (R53, R54). -/
theorem exec_bus_idle {s u : State} {h : Byte} {d : Word} (hb : s.BUSY = false) (hu : exec (decodeBus h d) s = .next u) :
    (∃ a v, decodeBus h d = .wr a v ∧ u = writeReg (regOf a) v s) ∨
    (∃ a, decodeBus h d = .rd a ∧ u = { s with reads := s.reads ++ [readReg (regOf a) s] }) := by
  rcases decodeBus_cases h d with ⟨a, ha⟩ | ⟨a, ha⟩
  · right
    rw [ha] at hu
    simp only [exec, execRd, hb] at hu
    cases hu
    exact ⟨a, ha, rfl⟩
  · left
    rw [ha] at hu
    simp only [exec, execWr, hb] at hu
    cases hu
    exact ⟨a, d, ha, rfl⟩

/-! ### Completion, clock edges, steps -/

/-- The completion step: the body of one of the six commands, or code 6 (R176). -/
theorem completeStep_cases {s t : State} (h : completeStep s = .next t) :
    (decodeCmd s.PEND = .ok .nop ∧ t = finish 0 s) ∨
    (decodeCmd s.PEND = .ok .init ∧ exec .init s = .next t) ∨
    (decodeCmd s.PEND = .ok .block ∧ exec .block s = .next t) ∨
    (decodeCmd s.PEND = .ok .hash ∧ exec .hash s = .next t) ∨
    (decodeCmd s.PEND = .ok .qr ∧ exec .qr s = .next t) ∨
    (decodeCmd s.PEND = .ok .clear ∧ exec .clear s = .next t) ∨
    (decodeCmd s.PEND = .error (.illegalCommand s.PEND) ∧ t = finish 6 s) := by
  unfold completeStep at h
  rcases decodeCmd_cases s.PEND with ⟨_, e⟩ | ⟨_, e⟩ | ⟨_, e⟩ | ⟨_, e⟩ | ⟨_, e⟩ | ⟨_, e⟩ | ⟨_, e⟩ <;>
    rw [e] at h ⊢ <;> simp_all [exec, execNop, ErrorCode.code]

theorem completeStep_next (s : State) : ∃ t, completeStep s = .next t := by
  unfold completeStep
  split
  · exact exec_next _ _
  · exact ⟨_, rfl⟩

/-- Everything one clock edge can do. -/
theorem clockEdge_cases {e : Edge} {s t : State} (h : clockEdge e s = .next t) :
    (e.rstN = false ∧ t = resetEdge e.bus s) ∨
    (e.rstN = true ∧ e.bus = none ∧ (e.done && s.BUSY) = false ∧ t = s) ∨
    (e.rstN = true ∧ e.bus = none ∧ e.done = true ∧ s.BUSY = true ∧ completeStep s = .next t) ∨
    (e.rstN = true ∧ (e.done && s.BUSY) = false ∧ ∃ x, e.bus = some x ∧
      exec (decodeBus x.header x.data) s = .next t) ∨
    (e.rstN = true ∧ e.done = true ∧ s.BUSY = true ∧ ∃ x u v, e.bus = some x ∧
      exec (decodeBus x.header x.data) s = .next u ∧ completeStep u = .next v ∧
      t = if clearMeetsWrite x s then settleClearRace v else v) := by
  unfold clockEdge at h
  cases hr : e.rstN with
  | false => left; simp only [hr, if_true] at h; cases h; exact ⟨rfl, rfl⟩
  | true =>
    right
    simp only [hr, Bool.true_eq_false, if_false] at h
    cases hb : e.bus with
    | none =>
      simp only [hb] at h
      split_ifs at h with hd
      · right; left; simp only [Bool.and_eq_true] at hd; exact ⟨rfl, rfl, hd.1, hd.2, h⟩
      · left; cases h; exact ⟨rfl, rfl, by simpa using hd, rfl⟩
    | some x =>
      right; right
      obtain ⟨u, hu⟩ := exec_next (decodeBus x.header x.data) s
      simp only [hb, hu] at h
      by_cases hd : (e.done && s.BUSY) = true
      · right
        obtain ⟨v, hv⟩ := completeStep_next u
        rw [if_pos hd, hv] at h
        rw [Bool.and_eq_true] at hd
        injection h with h
        exact ⟨rfl, hd.1, hd.2, x, u, v, rfl, hu, hv, h.symm⟩
      · left
        rw [if_neg hd] at h
        injection h with h
        exact ⟨rfl, by simpa using hd, x, rfl, by rw [hu, h]⟩

theorem clockEdge_next (e : Edge) (s : State) : ∃ t, clockEdge e s = .next t := by
  unfold clockEdge
  split
  · exact ⟨_, rfl⟩
  · split
    · split
      · exact completeStep_next s
      · exact ⟨_, rfl⟩
    · obtain ⟨u, hu⟩ := exec_next (decodeBus _ _) s
      rw [hu]
      simp only
      split
      · obtain ⟨v, hv⟩ := completeStep_next u
        rw [hv]
        exact ⟨_, rfl⟩
      · exact ⟨_, rfl⟩

/-- A step that gives a next state is a clock edge on the state with its input taken. -/
theorem step_cases {s t : State} (h : step s = .next t) :
    ∃ e, nextEvent s = .edge e ∧ clockEdge e (takeInput s) = .next t := by
  unfold step at h
  cases he : nextEvent s with
  | edge e => rw [he] at h; exact ⟨e, rfl, h⟩
  | secondMaster x => rw [he] at h; cases h
  | powerLoss => rw [he] at h; cases h

/-- What the host does on the pins of an edge is a write. -/
def WritesAt (e : Edge) : Prop := ∃ x a d, e.bus = some x ∧ decodeBus x.header x.data = .wr a d

/-- Everything a step that gives a next state can be. -/
inductive StepIs (s t : State) : Prop where
  /-- A reset (R200). -/
  | reset (e : Edge) (he : nextEvent s = .edge e) (hr : e.rstN = false) (ht : t = resetEdge e.bus (takeInput s))
  /-- Nothing happens. -/
  | idle (e : Edge) (he : nextEvent s = .edge e) (hr : e.rstN = true) (hb : e.bus = none)
      (hd : (e.done && s.BUSY) = false) (ht : t = takeInput s)
  /-- A dropped write (R177). -/
  | busyWrite (e : Edge) (x : Txn) (a : BitVec 7) (d : Word) (he : nextEvent s = .edge e) (hr : e.rstN = true)
      (hx : e.bus = some x) (hw : decodeBus x.header x.data = .wr a d) (hB : s.BUSY = true) (hd : e.done = false)
      (ht : t = { takeInput s with WERR := true })
  /-- A read while BUSY = 1 (R178). -/
  | busyRead (e : Edge) (x : Txn) (a : BitVec 7) (w : Word) (n : Nat) (he : nextEvent s = .edge e)
      (hr : e.rstN = true) (hx : e.bus = some x) (hw : decodeBus x.header x.data = .rd a) (hB : s.BUSY = true)
      (hd : e.done = false) (ht : t = { takeInput s with reads := s.reads ++ [w], draws := n })
  /-- A write while BUSY = 0 (R54). -/
  | idleWrite (e : Edge) (x : Txn) (a : BitVec 7) (d : Word) (he : nextEvent s = .edge e) (hr : e.rstN = true)
      (hx : e.bus = some x) (hw : decodeBus x.header x.data = .wr a d) (hB : s.BUSY = false)
      (ht : t = writeReg (regOf a) d (takeInput s))
  /-- A read while BUSY = 0 (R53). -/
  | idleRead (e : Edge) (x : Txn) (a : BitVec 7) (w : Word) (he : nextEvent s = .edge e) (hr : e.rstN = true)
      (hx : e.bus = some x) (hw : decodeBus x.header x.data = .rd a) (hB : s.BUSY = false)
      (ht : t = { takeInput s with reads := s.reads ++ [w] })
  /-- A completion (R176), alone or with a transaction at the same edge, which may have set WERR (R181 (c)). -/
  | completion (e : Edge) (u v : State) (w w' : Bool) (rs : List Word) (n n' : Nat) (he : nextEvent s = .edge e)
      (hr : e.rstN = true) (hB : s.BUSY = true) (hd : e.done = true)
      (hu : u = { takeInput s with WERR := w, reads := rs, draws := n })
      (hw : w = s.WERR ∨ w = true ∧ WritesAt e) (hv : completeStep u = .next v)
      (ht : t = { v with WERR := w', draws := n' })
      (hw' : w' = v.WERR ∨ decodeCmd s.PEND = .ok .clear ∧ WritesAt e)

/-- A step that gives a next state is one of these. -/
theorem stepIs_of_step {s t : State} (h : step s = .next t) : StepIs s t := by
  obtain ⟨e, he, hc⟩ := step_cases h
  rcases clockEdge_cases hc with
    ⟨hr, ht⟩ | ⟨hr, hb, hd, ht⟩ | ⟨hr, hb, hd, hB, ht⟩ | ⟨hr, hd, x, hx, ht⟩ | ⟨hr, hd, hB, x, u, v, hx, hu, hv, ht⟩
  · exact .reset e he hr ht
  · exact .idle e he hr hb hd ht
  · exact .completion e (takeInput s) t s.WERR t.WERR s.reads s.draws t.draws he hr hB hd rfl (.inl rfl) ht rfl (.inl rfl)
  · cases hB : s.BUSY
    · rcases exec_bus_idle (s := takeInput s) hB ht with ⟨a, d, hw, rfl⟩ | ⟨a, hw, rfl⟩
      · exact .idleWrite e x a d he hr hx hw hB rfl
      · exact .idleRead e x a _ he hr hx hw hB rfl
    · have hd' : e.done = false := by simpa [hB] using hd
      rcases exec_bus_busy (s := takeInput s) hB ht with ⟨a, d, hw, rfl⟩ | ⟨a, hw, w, n, rfl⟩
      · exact .busyWrite e x a d he hr hx hw hB hd' rfl
      · exact .busyRead e x a w n he hr hx hw hB hd' rfl
  · rcases exec_bus_busy (s := takeInput s) hB hu with ⟨a, d, hw, hu'⟩ | ⟨a, hw, w, n, hu'⟩
    · by_cases hm : clearMeetsWrite x (takeInput s) = true
      · rw [if_pos hm] at ht
        refine .completion e u v true _ s.reads s.draws _ he hr hB hd hu' (.inr ⟨rfl, x, a, d, hx, hw⟩) hv ht
          (.inr ⟨?_, x, a, d, hx, hw⟩)
        simp only [clearMeetsWrite] at hm
        split at hm
        · assumption
        · simp at hm
      · rw [if_neg hm] at ht
        subst ht
        exact .completion e u t true t.WERR s.reads s.draws t.draws he hr hB hd hu'
          (.inr ⟨rfl, x, a, d, hx, hw⟩) hv rfl (.inl rfl)
    · have hm : clearMeetsWrite x (takeInput s) = false := by
        simp only [clearMeetsWrite, hw]
        split <;> simp_all
      rw [hm] at ht
      simp only [Bool.false_eq_true, if_false] at ht
      subst ht
      exact .completion e u t s.WERR t.WERR (s.reads ++ [w]) n t.draws he hr hB hd hu' (.inl rfl) hv rfl (.inl rfl)

/-- With a clock edge as the oldest input, the step is that edge. -/
theorem step_of_edge {e : Edge} {rest : List Event} {s : State} (h : s.inputs = .edge e :: rest) :
    step s = clockEdge e { s with inputs := rest } := by
  simp [step, nextEvent, takeInput, handleEvent, h]

/-- With no input left, the step is the quiet edge. -/
theorem step_of_no_input {s : State} (h : s.inputs = []) : step s = clockEdge Edge.quiet s := by
  have : takeInput s = s := by cases s; simp_all [takeInput]
  simp [step, nextEvent, handleEvent, h, this]

/-- A transaction at an edge at which nothing completes. -/
theorem clockEdge_bus {e : Edge} {x : Txn} {s : State} (hr : e.rstN = true) (hx : e.bus = some x)
    (hd : (e.done && s.BUSY) = false) : clockEdge e s = exec (decodeBus x.header x.data) s := by
  obtain ⟨u, hu⟩ := exec_next (decodeBus x.header x.data) s
  unfold clockEdge
  simp only [hr, hx, hu, hd]
  simp

/-- A transaction at the edge at which the pending command completes (R181 (c)). -/
theorem clockEdge_bus_completing {e : Edge} {x : Txn} {s u v : State} (hr : e.rstN = true) (hx : e.bus = some x)
    (hd : e.done = true) (hb : s.BUSY = true) (hu : exec (decodeBus x.header x.data) s = .next u)
    (hv : completeStep u = .next v) :
    clockEdge e s = .next (if clearMeetsWrite x s then settleClearRace v else v) := by
  unfold clockEdge
  simp only [hr, hx, hu, hv, hd, hb]
  simp

/-! ### Runs of clock edges -/

@[simp] theorem runEdges_nil (s : State) : runEdges [] s = .next s := rfl

theorem runEdges_cons_next {e : Edge} {es : List Edge} {s t : State} (h : clockEdge e s = .next t) :
    runEdges (e :: es) s = runEdges es t := by
  simp [runEdges, h]

theorem runEdges_append_next {es fs : List Edge} {s t : State} (h : runEdges es s = .next t) :
    runEdges (es ++ fs) s = runEdges fs t := by
  induction es generalizing s with
  | nil => cases h; rfl
  | cons e es ih =>
    obtain ⟨u, hu⟩ := clockEdge_next e s
    rw [runEdges_cons_next hu] at h
    rw [List.cons_append, runEdges_cons_next hu, ih h]

theorem runEdges_next (es : List Edge) (s : State) : ∃ t, runEdges es s = .next t := by
  induction es generalizing s with
  | nil => exact ⟨s, rfl⟩
  | cons e es ih =>
    obtain ⟨u, hu⟩ := clockEdge_next e s
    obtain ⟨t, ht⟩ := ih u
    exact ⟨t, by rw [runEdges_cons_next hu, ht]⟩

/-- A clock edge with a read and no completion is the read (R53, R178). -/
theorem clockEdge_busEdge_rd (a : BitVec 7) (s : State) : clockEdge (busEdge (.rd a)) s = exec (.rd a) s := by
  obtain ⟨t, ht⟩ := exec_next (.rd a) s
  simp [clockEdge, busEdge, instrTxn, ht]

/-- A clock edge with a write and no completion is the write (R54, R177). -/
theorem clockEdge_busEdge_wr (a : BitVec 7) (v : Word) (s : State) :
    clockEdge (busEdge (.wr a v)) s = exec (.wr a v) s := by
  obtain ⟨t, ht⟩ := exec_next (.wr a v) s
  simp [clockEdge, busEdge, instrTxn, ht]

/-- The quiet edge is the completion step while BUSY = 1 and nothing while BUSY = 0 (R176). -/
theorem clockEdge_quiet (s : State) :
    clockEdge Edge.quiet s = if s.BUSY then completeStep s else .next s := by
  simp [clockEdge, Edge.quiet]

end Sys2Proof.Machine
end

