-- ==== Sys2Proof/Laws/Stream.lean ====
section
/-! SUPPORT. What the host's sequences of transactions do to an idle unit (30_encoding.md R79). -/

namespace Sys2Proof.Machine

/-- While BUSY = 0 a host write is `writeReg` on the named word (R54). -/
theorem clockEdge_hostWr (r : Reg) (v : Word) {s : State} (hb : s.BUSY = false) :
    clockEdge (busEdge (hostWr r v)) s = .next (writeReg r v s) := by
  rw [hostWr, clockEdge_busEdge_wr]
  simp [exec, execWr, hb, regOf_waddr]

/-- While BUSY = 0 a host read gives the named word (R53). -/
theorem clockEdge_hostRd (r : Reg) {s : State} (hb : s.BUSY = false) :
    clockEdge (busEdge (hostRd r)) s = .next { s with reads := s.reads ++ [readReg r s] } := by
  rw [hostRd, clockEdge_busEdge_rd]
  simp [exec, execRd, hb, regOf_waddr, observe]

/-- Writes of some words of DIN. -/
theorem runEdges_writeDin (d : Words 16) (l : List (Fin 16)) {s : State} (hb : s.BUSY = false) :
    runEdges ((l.map fun i => hostWr (.din i) d[i]).map busEdge) s =
      .next { s with DIN := l.foldl (fun x (i : Fin 16) => x.set i d[i]) s.DIN } := by
  induction l generalizing s with
  | nil => rfl
  | cons i l ih =>
    rw [List.map_cons, List.map_cons, runEdges_cons_next (clockEdge_hostWr _ _ hb)]
    exact ih (s := { s with DIN := s.DIN.set i d[i] }) hb

/-- LDDIN (R79) loads all of DIN. -/
theorem runEdges_lddin (d : Words 16) {s : State} (hb : s.BUSY = false) :
    runEdges ((Pseudo.lddin d).expand.map busEdge) s = .next { s with DIN := d } := by
  rw [Pseudo.expand, runEdges_writeDin d _ hb]
  have e : List.finRange 16 = [0, 1, 2, 3, 4, 5, 6, 7, 8, 9, 10, 11, 12, 13, 14, 15] := by decide
  have : (List.finRange 16).foldl (fun x (i : Fin 16) => x.set i d[i]) s.DIN = d := by
    generalize s.DIN = x
    simp only [e, List.foldl, Fin.getElem_fin]
    apply Vector.ext
    intro i hi
    interval_cases i <;> simp
  rw [this]

/-- Reads of some words of DOUT. -/
theorem runEdges_readDout (l : List (Fin 16)) {s : State} (hb : s.BUSY = false) :
    runEdges ((l.map fun i => hostRd (.dout i)).map busEdge) s =
      .next { s with reads := s.reads ++ l.map fun i => s.DOUT[i] } := by
  induction l generalizing s with
  | nil => simp
  | cons i l ih =>
    rw [List.map_cons, List.map_cons, runEdges_cons_next (clockEdge_hostRd _ hb),
      ih (s := { s with reads := s.reads ++ [readReg (.dout i) s] }) hb]
    simp [readReg]

/-- RDOUT (R79) gives the host all of DOUT. -/
theorem runEdges_rdout {s : State} (hb : s.BUSY = false) :
    runEdges (Pseudo.rdout.expand.map busEdge) s =
      .next { s with reads := s.reads ++ (List.finRange 16).map fun i => s.DOUT[i] } :=
  runEdges_readDout _ hb

/-- The command words (R74). -/
theorem decodeCmd_word (c : Command) :
    decodeCmd c.word = .ok (match c with
      | .nop => .nop | .init => .init | .block => .block | .hash => .hash | .qr => .qr | .clear => .clear) := by
  cases c <;> decide

/-- `CMD c`, its completion and one poll, on an idle unit (R79): the command's meaning, and its STATUS word for the
host. -/
theorem runEdges_command (c : Command) {s t : State} (hb : s.BUSY = false)
    (h : completeStep (startCommand c.word s) = .next t) (ht : t.BUSY = false) :
    runEdges (commandEdges c) s = .next { t with reads := t.reads ++ [statusWord t] } := by
  have hc : commandEdges c = [busEdge (hostWr .cmd c.word), Edge.quiet, busEdge (hostRd .status)] := rfl
  rw [hc, runEdges_cons_next (clockEdge_hostWr _ _ hb),
    runEdges_cons_next (t := t) (by rw [clockEdge_quiet]; exact h), runEdges_cons_next (clockEdge_hostRd _ ht)]
  rfl

end Sys2Proof.Machine
end

