-- ==== Sys2Proof/Tests/Slice0.lean ====
section
/-! SUPPORT. Tests of one step or one function, their expected values from 95_test_vectors.md and the opcode table, and for
every statement with hypotheses a witness that meets them. -/

namespace Sys2Proof.Tests

open Sys2Proof Sys2Proof.Machine

/-! ### Small states -/

/-- A field of the next state, if there is one. -/
def after {α : Type} (f : State → α) : Host.Outcome State Fault Refusal → Option α
  | .next s => some (f s)
  | _ => none

/-- The reset state with the key 0x01 x 32 (95_test_vectors.md 3.4, 4.1). -/
def keyed : State := { State.reset with KEY := Vector.replicate 8 0x01010101 }

/-- The state `INIT` builds from it, with the counter preloaded (95_test_vectors.md 4.4). -/
def built (lo hi : Word) : State :=
  { keyed with
    S := #v[0x61707865, 0x01010101, 0x01010101, 0x01010101, 0x01010101, 0x3320646E, 0, 0, lo, hi, 0x79622D32,
      0x01010101, 0x01010101, 0x01010101, 0x01010101, 0x6B206574]
    VALID := true }

/-- A pending command word. -/
def pending (v : Word) (s : State) : State := { s with PEND := v, BUSY := true }

/-- With this as the next input. -/
def withEdge (e : Edge) (s : State) : State := { s with inputs := [.edge e] }

/-- A transaction on the pins. -/
def txn (h : Byte) (d : Word) : Txn := { header := h, data := d }

/-- DIN = FFFFFFFF x 16 and DLEN = L (95_test_vectors.md 4.3). -/
def chunk (L : BitVec 7) : State := { built 0 0 with DIN := Vector.replicate 16 0xFFFFFFFF, LEN := L }

/-! ### Decoding: words written out from R71 and R74 -/

theorem test_decode_nop : decode .cmd32 [0x00, 0x00, 0x00, 0x00] = .ok (.nop, []) := by decide
theorem test_decode_init : decode .cmd32 [0x01, 0x00, 0x00, 0x00] = .ok (.init, []) := by decide
theorem test_decode_block : decode .cmd32 [0x02, 0x00, 0x00, 0x00] = .ok (.block, []) := by decide
theorem test_decode_hash : decode .cmd32 [0x03, 0x00, 0x00, 0x00] = .ok (.hash, []) := by decide
theorem test_decode_qr : decode .cmd32 [0x04, 0x00, 0x00, 0x00] = .ok (.qr, []) := by decide
theorem test_decode_clear : decode .cmd32 [0x05, 0x00, 0x00, 0x00] = .ok (.clear, []) := by decide
/-- RD STATUS is `0:02`; RD of the last word is `0:7F`. -/
theorem test_decode_rd : decode .bus [0b00000010] = .ok (.rd 2, []) ∧ decode .bus [0b01111111] = .ok (.rd 127, []) := by
  decide
/-- WR DIN[0], 0xB255CB9C is `1:20:B255CB9C` (95_test_vectors.md P3). -/
theorem test_decode_wr : decode .bus [0b10100000, 0x9C, 0xCB, 0x55, 0xB2] = .ok (.wr 0x20 0xB255CB9C, []) := by decide
/-- Illegal words of 95_test_vectors.md 4.5. -/
theorem test_decode_illegal :
    decodeCmd 0x12 = .error (.illegalCommand 0x12) ∧ decodeCmd 0x07 = .error (.illegalCommand 0x07) ∧
    decodeCmd 0x0F = .error (.illegalCommand 0x0F) ∧ decodeCmd 0x11 = .error (.illegalCommand 0x11) ∧
    decodeCmd 0xFFFFFFFF = .error (.illegalCommand 0xFFFFFFFF) ∧ decodeCmd 0x80000001 = .error (.illegalCommand 0x80000001) :=
  by decide
theorem test_decode_truncated :
    decode .cmd32 [1, 0, 0] = .error (.truncated .cmd32) ∧ decode .bus [0x81, 1, 0, 0] = .error (.truncated .bus) ∧
    decode .bus [] = .error (.truncated .bus) := by decide

/-! ### Well-formedness: one ill-formed access for each check (R52) -/

theorem test_wf_accepts :
    HostAccess.check 0x1000 (.read 0x1008 4) = .ok (.rd 2) ∧
    HostAccess.check 0x1000 (.write 0x11FC 4 0xFFFFFFFF) = .ok (.wr 127 0xFFFFFFFF) := by decide
theorem test_wf_outside :
    HostAccess.check 0x1000 (.read 0x1200 4) = .error .outsideUnit ∧
    HostAccess.check 0x1000 (.read 0x0FFC 4) = .error .outsideUnit := by decide
theorem test_wf_misaligned : HostAccess.check 0x1000 (.read 0x1002 4) = .error .misaligned := by decide
theorem test_wf_size :
    HostAccess.check 0 (.read 0x08 1) = .error .wrongSize ∧ HostAccess.check 0 (.read 0x08 8) = .error .wrongSize := by
  decide
theorem test_wf_value : HostAccess.check 0 (.write 0x80 4 0x100000000) = .error .valueTooWide := by decide

/-! ### The rounds (95_test_vectors.md 2.2, 3.1 to 3.4) -/

theorem test_rotl :
    rotl 0x80000001 7 = 0x000000C0 ∧ rotl 0x12345678 18 = 0x59E048D1 ∧ rotl 0xDEADBEEF 9 = 0x5B7DDFBD ∧
    rotl 0x00000001 13 = 0x00002000 := by decide

theorem test_quarterround :
    quarterround { a := 0xE7E8C006, b := 0xC4F9417D, c := 0x6479B4B2, d := 0x68C67137 } =
      { a := 0xE876D72B, b := 0x9361DFD5, c := 0xF1460244, d := 0x948541A3 } ∧
    quarterround { a := 0xFFFFFFFF, b := 0xFFFFFFFF, c := 0xFFFFFFFF, d := 0xFFFFFFFF } =
      { a := 0xF8038143, b := 0x00000080, c := 0xFFFF01FF, d := 0x1FB00000 } := by decide +kernel

theorem test_columnround :
    columnround #v[0, 1, 2, 3, 4, 5, 6, 7, 8, 9, 10, 11, 12, 13, 14, 15] =
      #v[0x20560736, 0xC3E2C001, 0x00103002, 0x00000D03, 0x00000604, 0x703B0FA6, 0x07020004, 0x001A2407,
        0x000C0808, 0x00000309, 0xC0181C42, 0x46214008, 0x81C1800D, 0x00061C0D, 0x0000080E, 0x903D18E2] := by
  decide +kernel

theorem test_rowround :
    rowround #v[0, 1, 2, 3, 4, 5, 6, 7, 8, 9, 10, 11, 12, 13, 14, 15] =
      #v[0x881581CD, 0x00000181, 0x00030202, 0x60706003, 0x2351A005, 0xD8308D6F, 0x00000486, 0x00091607,
        0x00132A08, 0x6672600B, 0x284D9A1C, 0x0000098B, 0x00000E8C, 0x001D360D, 0xA893200D, 0x586AA2CE] := by
  decide +kernel

theorem test_doubleround :
    doubleround #v[1, 0, 0, 0, 0, 0, 0, 0, 0, 0, 0, 0, 0, 0, 0, 0] =
      #v[0x8186A22D, 0x0040A284, 0x82479210, 0x06929051, 0x08000090, 0x02402200, 0x00004000, 0x00800000,
        0x00010200, 0x20400000, 0x08008104, 0x00000000, 0x20500000, 0xA0000040, 0x0008180A, 0x612A8020] := by
  decide +kernel

theorem test_core :
    coreBlock #v[0, 1, 2, 3, 4, 5, 6, 7, 8, 9, 10, 11, 12, 13, 14, 15] =
      #v[0xE1A0EBE0, 0x06032A02, 0x1EC19924, 0x91FFB36E, 0x83068335, 0xA7C06E2C, 0x75B43867, 0xCCF8517E,
        0xF61BA820, 0xAB1B8972, 0xEC9ED7F6, 0x478636B9, 0x745DD6AD, 0x8BBE722D, 0xA1CC9BDF, 0x5FC70CF0] := by
  decide +kernel

/-- The 128-bit expansion of 95_test_vectors.md 2.4: bytes 1..16 as the key, 101..116 as nonce and counter. -/
theorem test_expansion_short_key :
    byteAt (coreBlock (initialLayout Config.tau
      (packWords 8 [1, 2, 3, 4, 5, 6, 7, 8, 9, 10, 11, 12, 13, 14, 15, 16])
      (secondQuadrant 16 (packWords 8 [1, 2, 3, 4, 5, 6, 7, 8, 9, 10, 11, 12, 13, 14, 15, 16]))
      (packWords 2 [101, 102, 103, 104, 105, 106, 107, 108])
      |>.set 8 0x706F6E6D |>.set 9 0x74737271)) 0 = 39 ∧
    byteAt (coreBlock (initialLayout Config.tau
      (packWords 8 [1, 2, 3, 4, 5, 6, 7, 8, 9, 10, 11, 12, 13, 14, 15, 16])
      (secondQuadrant 16 (packWords 8 [1, 2, 3, 4, 5, 6, 7, 8, 9, 10, 11, 12, 13, 14, 15, 16]))
      (packWords 2 [101, 102, 103, 104, 105, 106, 107, 108])
      |>.set 8 0x706F6E6D |>.set 9 0x74737271)) 63 = 193 := by decide +kernel

/-! ### The commands (95_test_vectors.md 4.1 to 4.5) -/

theorem test_nop_clears_the_code :
    after statusWord (step (pending 0 { built 0 0 with ERR := 4 })) = some 0x00000002 := by decide

theorem test_init_long_key :
    after State.S (step (pending 1 keyed)) = some (built 0 0).S ∧
    after statusWord (step (pending 1 keyed)) = some 0x00000002 := by decide +kernel

theorem test_init_short_key :
    after State.S (step (pending 1 { keyed with
        KLEN := 16, KEY := #v[0x04030201, 0x08070605, 0x0C0B0A09, 0x100F0E0D, 0xFFFFFFFF, 0xFFFFFFFF, 0xFFFFFFFF, 0xFFFFFFFF]
        NONCE := #v[0xA3A2A1A0, 0xA7A6A5A4] })) =
      some #v[0x61707865, 0x04030201, 0x08070605, 0x0C0B0A09, 0x100F0E0D, 0x3120646E, 0xA3A2A1A0, 0xA7A6A5A4, 0, 0,
        0x79622D36, 0x04030201, 0x08070605, 0x0C0B0A09, 0x100F0E0D, 0x6B206574] := by decide +kernel

/-- KLEN 24 and NLEN 4 together report code 1; VALID stays (95_test_vectors.md 4.1). -/
theorem test_init_errors :
    after statusWord (step (pending 1 { built 0 0 with KLEN := 24, NLEN := 4 })) = some 0x00000102 ∧
    after statusWord (step (pending 1 { built 0 0 with NLEN := 9 })) = some 0x00000202 := by decide

theorem test_hash_block :
    after State.DOUT (step (pending 3 (built 0 0))) =
      some #v[0x49EE3454, 0x522D9BF6, 0xBB6F5BF3, 0x76BDC8FD, 0x0E947FD6, 0x9CA7C1A0, 0x263FBD8A, 0xACCACDC6,
        0x9FF963DC, 0x60072683, 0xB6B4A10E, 0x7FE09F1B, 0xEB6C59B9, 0xE26C45D4, 0xB05EDBBA, 0x04E039F9] := by
  decide +kernel

theorem test_hash_errors :
    after statusWord (step (pending 3 State.reset)) = some 0x00000300 ∧
    after statusWord (step (pending 3 { built 0 0 with EXH := true })) = some 0x00000506 := by decide

/-- L = 5 and L = 63 with DIN = FFFFFFFF x 16. -/
theorem test_block_short :
    after (fun s => (s.DOUT[0], s.DOUT[1], s.DOUT[15], s.S[8])) (step (pending 2 (chunk 5))) = some (0xB611CBAB, 0x9, 0, 1) ∧
    after (fun s => (s.DOUT[0], s.DOUT[1], s.DOUT[15], s.S[8])) (step (pending 2 (chunk 63))) =
      some (0xB611CBAB, 0xADD26409, 0x001FC606, 1) := by decide +kernel

/-- The carry and the exhaustion (95_test_vectors.md 4.4). -/
theorem test_block_counter :
    after (fun s => (s.DOUT[3], s.S[8], s.S[9], statusWord s)) (step (pending 2 (built 0xFFFFFFFF 0))) =
      some (0x8F223B41, 0, 1, 0x2) ∧
    after (fun s => (s.DOUT[3], s.S[8], s.S[9], statusWord s)) (step (pending 2 (built 0xFFFFFFFF 0xFFFFFFFF))) =
      some (0x66A25D61, 0, 0, 0x6) := by decide +kernel

/-- Zero length, and code 4 above 64 (95_test_vectors.md 4.3, 4.5). -/
theorem test_block_length_bounds :
    after (fun s => (s.DOUT, s.S[8], statusWord s)) (step (pending 2 { chunk 0 with DOUT := Vector.replicate 16 7 })) =
      some (Vector.replicate 16 0, 0, 0x2) ∧
    after statusWord (step (pending 2 (chunk 65))) = some 0x00000402 := by decide +kernel

/-- Program P1's second quarter-round. -/
theorem test_qr :
    after State.QR (step (pending 4 { State.reset with QR := #v[0x08008145, 0x00000080, 0x00010200, 0x20500000] })) =
      some #v[0x1EC630DC, 0x2840A214, 0x8247B060, 0x2A1E9551] := by decide +kernel

/-- CLEAR from STATUS 0000000E leaves the reset registers, CTRL and DLEN as they were. -/
theorem test_clear :
    after State.registers (step (pending 5 { chunk 3 with EXH := true, WERR := true, KLEN := 16 })) =
      some { State.reset with PEND := 5, KLEN := 16, LEN := 3 } := by decide +kernel

theorem test_illegal_word :
    after statusWord (step (pending 0x12 (built 0 0))) = some 0x00000602 ∧
    after statusWord (step (pending 0xFFFFFFFF State.reset)) = some 0x00000600 := by decide

/-! ### The bus (95_test_vectors.md 4.6, 4.7) -/

/-- What a read returns. -/
def readBack (a : BitVec 7) (o : Host.Outcome State Fault Refusal) : Option Word :=
  match o with
  | .next s =>
    match exec (.rd a) s with
    | .next t => t.reads.getLast?
    | _ => none
  | _ => none

theorem test_write_masks :
    readBack 0 (exec (.wr 0 0xFFFFFFFF) State.reset) = some 0x00000F3F ∧
    readBack 3 (exec (.wr 3 0xFFFFFFFF) State.reset) = some 0x0000007F ∧
    readBack 17 (exec (.wr 17 0x12345678) State.reset) = some 0x12345678 := by decide

theorem test_write_only_and_read_only :
    readBack 8 (exec (.wr 8 0xDEADBEEF) State.reset) = some 0 ∧ readBack 4 (exec (.wr 4 5) State.reset) = some 0 ∧
    readBack 48 (exec (.wr 48 5) State.reset) = some 0 ∧ readBack 64 (exec (.wr 64 5) State.reset) = some 0 ∧
    readBack 127 (exec (.wr 6 0x1234) State.reset) = some 0 := by decide

/-- Steps 6, 7 and 12 of 4.7: a dropped write, the bound bits of a busy STATUS, and the write-1-to-clear. -/
theorem test_busy_write : exec (.wr 32 0x12345678) (pending 3 State.reset) = .next { pending 3 State.reset with WERR := true } := by
  rfl

theorem test_busy_status :
    after (fun t => (t.reads.getLast?).map fun v => (v.getLsbD 0, v.getLsbD 3, v.getLsbD 5, v.getLsbD 31))
      (exec (.rd 2) { pending 3 State.reset with WERR := true }) = some (some (true, true, false, false)) := by
  simp [exec, execRd, pending, State.reset, busyReadReg, regOf, after, observe, busyStatusWord, bit, drawn]

theorem test_werr_cleared_by_one :
    after State.WERR (exec (.wr 2 0x8) { State.reset with WERR := true }) = some false ∧
    after State.WERR (exec (.wr 2 0xFFFFFFF7) { State.reset with WERR := true }) = some true := by decide

/-- Step 14: a reset with a command pending. -/
theorem test_reset_discards_the_command :
    after State.registers (step (withEdge Edge.reset (pending 1 keyed))) = some State.reset := by decide +kernel

/-! ### The very next step runs the placed row -/

theorem test_fetch_commands :
    after statusWord (step (State.reset.withFetchWord 32 0)) = some 0 ∧
    after statusWord (step (State.reset.withFetchWord 32 1)) = some 0x2 ∧
    after statusWord (step (State.reset.withFetchWord 32 2)) = some 0x300 ∧
    after statusWord (step (State.reset.withFetchWord 32 3)) = some 0x300 ∧
    after statusWord (step (State.reset.withFetchWord 32 4)) = some 0 ∧
    after statusWord (step (State.reset.withFetchWord 32 5)) = some 0 := by decide +kernel

theorem test_fetch_bus :
    after State.reads (step (State.reset.withFetchWord 8 0x00)) = some [0x820] ∧
    after ctrlWord (step (State.reset.withFetchWord 8 0x80)) = some 0 ∧
    after ctrlWord (step (State.reset.withFetchWord 40 0x0000041080)) = some 0x410 := by decide +kernel

theorem test_foreign_events :
    step { State.reset with inputs := [.powerLoss] } = .fault .clockOrPowerLost ∧
    step { State.reset with inputs := [.secondMaster (txn 0 0)] } = .refused .secondBusMaster := by
  constructor <;> rfl

/-! ### Streams -/

/-- Program P2: boot with key 0x01 x 32 and nonce 0, then one byte 0xFF (4.3, L = 1). -/
theorem test_boot_and_one_byte :
    (match runEdges (bootEdges (List.replicate 32 1) (List.replicate 8 0)) State.reset with
      | .next s => (transformChunk [0xFF] s).map Prod.fst
      | _ => none) = some [0xAB] := by decide +kernel

theorem test_chunks : (chunksOf (List.replicate 100 0)).map List.length = [64, 36] ∧ chunksOf [] = [] := by decide +kernel

theorem test_pseudo_wait :
    (Pseudo.setlen 16 8).expand = [.wr 0 0x810] ∧ waitOver [1, 1, 2] = true ∧ waitOver [1, 2, 2] = false := by decide

/-! ### Witnesses: for every statement with hypotheses, states and operands that meet them -/

theorem next_of_after {α : Type} {f : State → α} {o : Host.Outcome State Fault Refusal} {v : α}
    (h : after f o = some v) : ∃ t, o = .next t ∧ f t = v := by
  cases o with
  | next s => exact ⟨s, rfl, by simpa [after] using h⟩
  | fault _ => simp [after] at h
  | refused _ => simp [after] at h

/-- With no input left and a command pending, the step completes it. -/
theorem completes_quiet {s : State} {i : Instr} (h : s.inputs = []) (hb : s.BUSY = true) (hd : decodeCmd s.PEND = .ok i) :
    s.Completes i := ⟨Edge.quiet, by simp [nextEvent, h], rfl, rfl, hb, hd⟩

theorem not_resets_quiet {s : State} (h : s.inputs = []) : ¬ s.Resets := by
  rintro ⟨e, he, hr⟩
  simp only [nextEvent, h, Event.edge.injEq] at he
  subst he
  exact absurd hr (by decide)

theorem step_next (s : State) (h : s.inputs = []) : ∃ t, step s = .next t := by
  rw [step_of_no_input h]
  exact clockEdge_next _ _

theorem witness_DecodedBytesAreTheEncoding :
    decode .bus [0x81, 0x01, 0, 0, 0, 0xFF] = .ok (.wr 1 1, [0xFF]) ∧ decode .cmd32 [5, 0, 0, 0] = .ok (.clear, []) := by
  decide

theorem witness_EveryBusHeaderDecodes : (0x80#8).getLsbD 7 = true ∧ (0x7F#8).getLsbD 7 = false := by decide

theorem witness_StepRunsTheBusTransaction :
    (withEdge { rstN := true, bus := some (txn 0x81 1), done := false } State.reset).inputs =
      .edge { rstN := true, bus := some (txn 0x81 1), done := false } :: [] := rfl

/-- The CMD write itself, at an edge whose `done` is set, while BUSY = 0: it issues the command and does not complete
it. -/
theorem witness_StepRunsTheBusTransaction_done :
    (withEdge { rstN := true, bus := some (txn 0x81 1), done := true } State.reset).BUSY = false ∧
    after (fun t => (t.PEND, t.BUSY)) (step (withEdge { rstN := true, bus := some (txn 0x81 1), done := true } State.reset)) =
      some (1, true) := by decide +kernel

theorem witness_StepRunsThePendingCommand :
    (pending 5 State.reset).BUSY = true ∧ decodeCmd (pending 5 State.reset).PEND = .ok .clear ∧
    (pending 5 State.reset).inputs = [] ∧ (pending 6 State.reset).inputs = [] ∧
    decodeCmd (pending 6 State.reset).PEND = .error (.illegalCommand 6) ∧
    (withEdge { rstN := true, bus := none, done := true } (pending 5 State.reset)).inputs =
      .edge { rstN := true, bus := none, done := true } :: [] := by decide

theorem witness_IllegalWordCompletesWithCodeSix :
    6 ≤ ((0x6#32).extractLsb' 0 4).toNat ∧ (0x10#32).extractLsb' 4 28 ≠ 0 ∧ State.reset.BUSY = false ∧
    (pending 0x6 State.reset).BUSY = true ∧ (pending 0x6 State.reset).PEND = 0x6 ∧
    (0x5#32).extractLsb' 4 28 = 0 ∧ ((0x5#32).extractLsb' 0 4).toNat < 6 := by
  decide

theorem witness_NopWritesOnlyTheResultCode : State.reset.BUSY = false := rfl

/-- Another command gives a next state. -/
theorem witness_ClearZeroesKeyMaterialAndFlags : ∃ t, exec .block (built 0 0) = .next t := exec_next _ _

/-- A write with NOP, a read with CLEAR, a write with CLEAR, an illegal word. -/
theorem witness_TransactionAtTheCompletionEdge :
    decodeCmd (pending 0 State.reset).PEND = .ok .nop ∧ decodeCmd (pending 5 State.reset).PEND = .ok .clear ∧
    decodeCmd (pending 6 State.reset).PEND = .error (.illegalCommand 6) ∧
    (pending 5 State.reset).BUSY = true ∧ decodeBus 0xFF 0 = .wr 127 0 ∧ decodeBus 0x7F 0 = .rd 127 ∧
    (withEdge { rstN := true, bus := some (txn 0xFF 0), done := true } (pending 5 State.reset)).inputs =
      .edge { rstN := true, bus := some (txn 0xFF 0), done := true } :: [] := by decide

theorem witness_ResetEdgeGivesTheResetValues :
    (withEdge { rstN := false, bus := some (txn 0x02 0), done := true } (pending 1 keyed)).inputs =
      .edge { rstN := false, bus := some (txn 0x02 0), done := true } :: [] ∧
    decodeBus 0x02 0 = .rd 2 ∧ decodeBus 0x81 1 = .wr 1 1 := by decide

theorem witness_InitBuildsTheState :
    (State.reset.KLEN = 32#6 ∧ State.reset.NLEN = 8#4) ∧
    ({ State.reset with KLEN := 16 }.KLEN = 16#6 ∧ { State.reset with KLEN := 16 }.NLEN = 8#4) ∧
    (({ State.reset with KLEN := 17 }).KLEN ≠ 16#6 ∧ ({ State.reset with KLEN := 17 }).KLEN ≠ 32#6) ∧
    ({ State.reset with NLEN := 9 }.KLEN = 32#6 ∧ { State.reset with NLEN := 9 }.NLEN ≠ 8#4) := by decide

theorem witness_ShortKeyInitIgnoresTheUpperKeyWords :
    ({ keyed with KLEN := 16 }).KLEN = 16#6 ∧
    (#v[0x01010101, 0x01010101, 0x01010101, 0x01010101, 1, 2, 3, 4] : Words 8)[3] = keyed.KEY[3] := by decide

theorem witness_OnlyInitReadsKeyNonceAndCtrl : Instr.block ∈ [Instr.nop, .block, .hash, .qr] := by decide

theorem witness_RotlIsLeftRotation : (0 < 1 ∧ 1 < 32 ∧ 31 < 32) ∧ (0 < 31 ∧ 31 < 32 ∧ 0 < 32) := by decide

theorem witness_RoundGroupsRunInAnyOrder :
    columnGroups.reverse.Perm columnGroups ∧ rowGroups.reverse.Perm rowGroups := by decide

theorem witness_ColumnroundIsTransposedRowround : (3 < 4 ∧ 0 < 4) := by decide

theorem witness_QrAppliesTheQuarterround :
    quarterround { a := State.reset.QR[0], b := State.reset.QR[1], c := State.reset.QR[2], d := State.reset.QR[3] } =
      { a := 0, b := 0, c := 0, d := 0 } := by decide +kernel

theorem witness_HashWritesTheKeystreamBlock :
    ((built 0 0).VALID = true ∧ (built 0 0).EXH = false) ∧ State.reset.VALID = false ∧
    ({ built 0 0 with EXH := true }.VALID = true ∧ { built 0 0 with EXH := true }.EXH = true) := by decide

/-- L = 1, 64, 0 and 65, 127. -/
theorem witness_BlockXorsOneChunk :
    ((chunk 1).VALID = true ∧ (chunk 1).EXH = false) ∧ (1 ≤ (chunk 1).LEN.toNat ∧ (chunk 64).LEN.toNat ≤ 64) ∧
    (chunk 0).LEN.toNat = 0 ∧ 64 < (chunk 65).LEN.toNat ∧ 64 < (chunk 127).LEN.toNat ∧ State.reset.VALID = false ∧
    { built 0 0 with EXH := true }.EXH = true := by decide

theorem witness_OutputBytesOfAChunk :
    (chunk 1).VALID = true ∧ (chunk 1).EXH = false ∧ 1 ≤ (chunk 1).LEN.toNat ∧ (chunk 64).LEN.toNat ≤ 64 ∧
    (15 < 16 ∧ 3 < 4 ∧ 1 ≤ 64 ∧ 64 ≤ 64) := by decide

/-- With L = 5 the word 1 may differ above its first byte. -/
theorem witness_PaddingBytesDoNotMatter :
    ∀ k, k < (chunk 5).LEN.toNat → byteAt ((chunk 5).DIN.set 1 0x000000FF) k = byteAt (chunk 5).DIN k := by
  decide +kernel

theorem witness_ExhaustionStopsTheKeystream :
    (built 0xFFFFFFFF 0xFFFFFFFF).VALID = true ∧ (built 0xFFFFFFFF 0xFFFFFFFF).EXH = false ∧
    1 ≤ (built 0xFFFFFFFF 0xFFFFFFFF).LEN.toNat ∧ (built 0xFFFFFFFF 0xFFFFFFFF).LEN.toNat ≤ 64 ∧
    counter (built 0xFFFFFFFF 0xFFFFFFFF).S = 0xFFFFFFFFFFFFFFFF := by decide

theorem witness_HashShowsTheNextBlock :
    (built 0 0).VALID = true ∧ (built 0 0).EXH = false ∧ (built 0 0).LEN = 64#7 ∧
    (built 0 0).DIN = Vector.replicate 16 0 := by decide

/-- A command that ends with an error. -/
theorem witness_ErrorsArePrecise : after State.ERR (completeStep (pending 2 State.reset)) = some 3 := by decide

theorem witness_ErrorPriority :
    decodeCmd (pending 1 State.reset).PEND = .ok .init ∧ decodeCmd (pending 3 State.reset).PEND = .ok .hash ∧
    decodeCmd (pending 2 State.reset).PEND = .ok .block ∧ 6 ≤ ((pending 6 State.reset).PEND.extractLsb' 0 4).toNat ∧
    (pending 16 State.reset).PEND.extractLsb' 4 28 ≠ 0 := by decide

/-- The first and the last word of every clause. -/
theorem witness_IdleReadReturnsTheRegister :
    State.reset.BUSY = false ∧ (8#7).toNat = 8 + (0 : Fin 8).val ∧ (15#7).toNat = 8 + (7 : Fin 8).val ∧
    (17#7).toNat = 16 + (1 : Fin 2).val ∧ (23#7).toNat = 20 + (3 : Fin 4).val ∧ (47#7).toNat = 32 + (15 : Fin 16).val ∧
    (63#7).toNat = 48 + (15 : Fin 16).val ∧ (79#7).toNat = 64 + (15 : Fin 16).val ∧
    (24 ≤ (31#7).toNat ∧ (31#7).toNat ≤ 31) ∧ 80 ≤ (127#7).toNat := by decide

theorem witness_IdleWriteSetsTheRegister :
    State.reset.BUSY = false ∧ (15#7).toNat = 8 + (7 : Fin 8).val ∧ (16#7).toNat = 16 + (0 : Fin 2).val ∧
    (20#7).toNat = 20 + (0 : Fin 4).val ∧ (32#7).toNat = 32 + (0 : Fin 16).val ∧
    (4 ≤ (7#7).toNat ∧ (7#7).toNat ≤ 7) ∧ (24 ≤ (24#7).toNat ∧ (24#7).toNat ≤ 31) ∧ 48 ≤ (48#7).toNat := by decide

theorem witness_BusyWriteIsDropped : (pending 3 State.reset).BUSY = true := rfl

theorem witness_BusyReadBindsStatusCmdAndReservedWords :
    (pending 3 State.reset).BUSY = true ∧ (24 ≤ (24#7).toNat ∧ (24#7).toNat ≤ 31) ∧ 80 ≤ (80#7).toNat := by decide

/-- The last word before a reserved range and the first after one. -/
theorem witness_BusyReadIsAFreshDraw :
    (pending 3 State.reset).BUSY = true ∧ (3 ≤ (5#7).toNat ∧ (5#7).toNat ≤ 5) ∧ (8 ≤ (8#7).toNat ∧ (17#7).toNat ≤ 17) ∧
    (20 ≤ (20#7).toNat ∧ (23#7).toNat ≤ 23) ∧ (32 ≤ (32#7).toNat ∧ (79#7).toNat ≤ 79) ∧ 24 ≤ (24#7).toNat ∧
    80 ≤ (80#7).toNat := by decide

theorem witness_WrittenWordReadsBackMasked :
    State.reset.BUSY = false ∧ (16 ≤ (16#7).toNat ∧ (17#7).toNat ≤ 17) ∧ (20 ≤ (20#7).toNat ∧ (23#7).toNat ≤ 23) ∧
    (32 ≤ (32#7).toNat ∧ (47#7).toNat ≤ 47) := by decide

theorem witness_KeyRegistersCannotBeRead : keyed.BUSY = false ∧ (pending 3 keyed).BUSY = true := ⟨rfl, rfl⟩

theorem witness_RepeatedWriteIsIdempotent : State.reset.BUSY = false ∧ (2#7 : BitVec 7) ≠ 1 := by decide

/-- A built state, with BLOCK pending: the invariant and a next state. -/
theorem witness_EveryStepKeepsTheInvariant :
    (pending 2 (built 5 0)).Inv ∧ ∃ t, step (pending 2 (built 5 0)) = .next t := by
  refine ⟨⟨by decide, by decide, by decide, by decide, by decide, by decide, ?_, ?_⟩, step_next _ rfl⟩
  · intro _; decide
  · intro _ h; exact absurd h (by decide)

/-- A step that issues, and a step that completes. -/
theorem witness_BusyChangesOnlyByIssueCompletionOrReset :
    (State.reset.BUSY = false ∧
      after (fun t => (t.BUSY, t.PEND)) (step (withEdge (busEdge (hostWr .cmd 1)) State.reset)) = some (true, 1)) ∧
    ((pending 1 State.reset).BUSY = true ∧ after State.BUSY (step (pending 1 State.reset)) = some false) := by
  decide +kernel

theorem witness_ValidKselErrWriters :
    (∃ t, step (pending 1 { keyed with KLEN := 16 }) = .next t ∧ (t.VALID, t.KSEL) = (true, true)) ∧
    (∃ t, step (pending 2 keyed) = .next t ∧ t.ERR = 3) ∧ (keyed.VALID, keyed.KSEL, keyed.ERR) = (false, false, 0) :=
  ⟨next_of_after (f := fun t => (t.VALID, t.KSEL)) (by decide +kernel), next_of_after (f := State.ERR) (by decide +kernel),
    by decide⟩

theorem witness_ExhaustedFlagWriters :
    (∃ t, step (pending 2 (built 0xFFFFFFFF 0xFFFFFFFF)) = .next t ∧ t.EXH = true) ∧
    (∃ t, step (pending 1 { built 0 0 with EXH := true }) = .next t ∧ t.EXH = false) :=
  ⟨next_of_after (f := State.EXH) (by decide +kernel), next_of_after (f := State.EXH) (by decide +kernel)⟩

theorem witness_WriteErrorFlagWriters :
    (∃ t, step (withEdge (busEdge (.wr 32 7)) (pending 3 keyed)) = .next t ∧ t.WERR = true) ∧
    (∃ t, step (withEdge (busEdge (.wr 2 8)) { keyed with WERR := true }) = .next t ∧ t.WERR = false) :=
  ⟨next_of_after (f := State.WERR) (by decide +kernel), next_of_after (f := State.WERR) (by decide +kernel)⟩

theorem witness_CipherStateWriters :
    (∃ t, step (pending 1 keyed) = .next t ∧ t.S[0] = 0x61707865) ∧ keyed.S[0] = 0 ∧
    (pending 2 (built 0 0)).Completes .block ∧ ∃ t, step (pending 2 (built 0 0)) = .next t :=
  ⟨next_of_after (f := fun t => t.S[0]) (by decide +kernel), by decide, completes_quiet rfl rfl (by decide), step_next _ rfl⟩

/-- QR is pending (QR changes), and HASH is pending (DOUT changes). -/
theorem witness_HostRegisterWriters :
    ¬ (pending 4 keyed).Resets ∧ ¬ (pending 4 keyed).Completes .clear ∧ (pending 4 keyed).BUSY = true ∧
    (∃ t, step (pending 4 { keyed with QR := #v[1, 0, 0, 0] }) = .next t ∧ t.QR[0] = 0x08008145) ∧
    (∃ t, step (pending 3 (built 0 0)) = .next t ∧ (t.DOUT[0], t.ERR) = (0x49EE3454, 0)) := by
  refine ⟨not_resets_quiet rfl, ?_, rfl, next_of_after (f := fun t => t.QR[0]) (by decide +kernel),
    next_of_after (f := fun t => (t.DOUT[0], t.ERR)) (by decide +kernel)⟩
  rintro ⟨_, _, _, _, _, h⟩
  exact absurd h (by decide)

theorem witness_CommandInputsAreHeldWhileBusy :
    (built 0 0).BUSY = false ∧
    ∀ e ∈ [busEdge (.wr 3 0), busEdge (.rd 2), { rstN := true, bus := none, done := false }],
      e.rstN = true ∧ e.done = false := by decide

theorem witness_HiddenStateIsUnobservable : ∃ t, step (pending 3 (built 0 0)) = .next t := step_next _ rfl

theorem witness_FoldedModelAgrees : (built 0 0).BUSY = false := rfl

/-- BLOCK is pending at counter 5 of a stream. -/
theorem witness_CounterNeverFallsWithinAStream :
    (∃ t, step (pending 2 (built 5 0)) = .next t) ∧ ¬ (pending 2 (built 5 0)).Resets ∧
    ¬ (pending 2 (built 5 0)).Completes .init ∧ ¬ (pending 2 (built 5 0)).Completes .clear ∧
    5 ≤ (counter (pending 2 (built 5 0)).S).toNat := by
  refine ⟨step_next _ rfl, not_resets_quiet rfl, ?_, ?_, by decide⟩
  · rintro ⟨_, _, _, _, _, h⟩
    exact absurd h (by decide)
  · rintro ⟨_, _, _, _, _, h⟩
    exact absurd h (by decide)

/-- Two BLOCKs of one stream, with the host's CMD write between them. -/
theorem witness_NoCounterValueIsUsedTwice :
    ∃ s s₁ t t₁ : State, s.UsesBlock s₁ ∧ StreamRun s₁ t ∧ t.UsesBlock t₁ := by
  let s : State := { pending 2 (built 0 0) with inputs := [.edge Edge.quiet, .edge (busEdge (.wr 1 2))] }
  obtain ⟨s₁, h₁, f₁⟩ := next_of_after
    (f := fun u => (u.inputs, u.BUSY, u.VALID, u.EXH, u.LEN, u.ERR)) (o := step s)
    (v := ([.edge (busEdge (.wr 1 2))], false, true, false, 64, 0)) (by decide +kernel)
  simp only [Prod.mk.injEq] at f₁
  obtain ⟨hi, hb, hv, he, hl, h0⟩ := f₁
  let t : State := { s₁ with inputs := [], PEND := 2, BUSY := true }
  have hs : step s₁ = .next t := by
    rw [step_of_edge hi, clockEdge_busEdge_wr]
    simp only [exec, execWr, hb]
    rfl
  have hd : decodeCmd 2 = .ok .block := by decide
  obtain ⟨t₁, ht⟩ := step_next t rfl
  have hx : exec .block t = .next t₁ := by
    rw [step_of_no_input rfl, clockEdge_quiet, if_pos rfl, completeStep, show decodeCmd t.PEND = .ok .block from hd] at ht
    exact ht
  have hl' : t.LEN.toNat = 64 := by rw [show t.LEN = 64#7 from hl]; rfl
  refine ⟨s, s₁, t, t₁, ⟨⟨Edge.quiet, rfl, rfl, rfl, rfl, by decide⟩, by decide, h₁, h0⟩, ?_,
    completes_quiet rfl rfl hd, by omega, ht, ?_⟩
  · refine .next .start ?_ ?_ ?_ hs
    · rintro ⟨e, h, hr⟩
      rw [nextEvent, hi] at h
      injection h with h
      subst h
      exact absurd hr (by decide)
    · rintro ⟨_, _, _, _, h, _⟩
      rw [hb] at h
      exact absurd h (by decide)
    · rintro ⟨_, _, _, _, h, _⟩
      rw [hb] at h
      exact absurd h (by decide)
  · rcases exec_block_cases hx with ⟨h, _⟩ | ⟨_, h, _⟩ | ⟨_, _, h, _⟩ | ⟨_, _, h, _⟩ | ⟨_, _, _, _, x, r, h⟩
    · exact absurd (hv.symm.trans h) (by decide)
    · exact absurd (he.symm.trans h) (by decide)
    · omega
    · omega
    · rw [h]
      rfl

theorem witness_BootSequenceBuildsTheState :
    (List.replicate 16 (1 : Byte)).length = 16 ∧ (List.replicate 32 (1 : Byte)).length = 32 ∧
    (List.replicate 8 (0 : Byte)).length = 8 := by decide

theorem witness_TransformChunkXorsTheKeystream :
    (built 0 0).BUSY = false ∧ (built 0 0).VALID = true ∧ (built 0 0).EXH = false ∧
    1 ≤ ([7] : List Byte).length ∧ (List.replicate 64 (7 : Byte)).length ≤ 64 := by decide

/-- The last block of the stream, and the empty message. -/
theorem witness_TransformKeepsLengthAndAdvancesTheCounter :
    (built 0xFFFFFFFF 0xFFFFFFFF).BUSY = false ∧ (built 0xFFFFFFFF 0xFFFFFFFF).VALID = true ∧
    (built 0xFFFFFFFF 0xFFFFFFFF).EXH = false ∧
    (counter (built 0xFFFFFFFF 0xFFFFFFFF).S).toNat + ((List.replicate 64 (7 : Byte)).length + 63) / 64 ≤ 2 ^ 64 ∧
    (counter (built 0 0).S).toNat + (([] : List Byte).length + 63) / 64 ≤ 2 ^ 64 := by decide

theorem witness_TransformSplitsAtBlockBoundaries :
    (List.replicate 64 (7 : Byte)).length % 64 = 0 ∧ (built 0 0).BUSY = false ∧ (built 0 0).VALID = true ∧
    (built 0 0).EXH = false ∧
    (counter (built 0 0).S).toNat + ((List.replicate 64 (7 : Byte)).length + ([1] : List Byte).length + 63) / 64 ≤ 2 ^ 64 := by
  decide

theorem witness_TransformRoundTrip :
    keyed.BUSY = false ∧ (keyed.KLEN = 16#6 ∨ keyed.KLEN = 32#6) ∧ keyed.NLEN = 8#4 ∧
    ([0xFF] : List Byte).length ≤ 64 * 2 ^ 64 := by decide

end Sys2Proof.Tests
end

section
/-! SUPPORT. The statements of the scope (00_scope.md): the step and its bus transaction (R6), the rotation (R11) and the
folded model (R7), with the lemmas they need. -/

namespace Sys2Proof.Machine

/-! ### The round sequencer computes the core (41_core_transform.md R129, R131) -/

/-- Two passes of the sequencer's loop from an even round are one double round (R127, R128). -/
theorem seqRound_seqRound {s : State} (he : s.RIDX.val % 2 = 0) (hl : s.RIDX.val < 20) :
    (seqRound (seqRound s)).X = doubleround s.X ∧ (seqRound (seqRound s)).RIDX.val = s.RIDX.val + 2 := by
  have h1 : (s.RIDX.val + 1) % 21 = s.RIDX.val + 1 := by omega
  have h2 : (s.RIDX.val + 1 + 1) % 21 = s.RIDX.val + 2 := by omega
  have hl' : s.RIDX.val + 1 < 20 := by omega
  have ho : (s.RIDX.val + 1) % 2 = 1 := by omega
  simp [seqRound, doubleround, he, hl, h1, h2, hl', ho]

/-- The last `2 * k` passes of the sequencer's loop are `k` double rounds. -/
theorem seqRounds_X (k : Nat) {s : State} (h : s.RIDX.val + 2 * k = 20) :
    (seqRounds (2 * k) s).X = doublerounds k s.X := by
  induction k generalizing s with
  | zero => rfl
  | succ k ih =>
    obtain ⟨hX, hR⟩ := seqRound_seqRound (s := s) (by omega) (by omega)
    rw [doublerounds, ← hX]
    exact ih (by omega)

/-- The sequencer's result is the core of `S`, whatever `X` and `RIDX` were before (R129, R131). -/
theorem seqFinal_runSequencer (s : State) : seqFinal (runSequencer s) = coreBlock s.S := by
  have hX : (runSequencer s).X = doublerounds 10 s.S := seqRounds_X 10 rfl
  have hS : (runSequencer s).S = s.S := by
    obtain ⟨x, r, h⟩ := runSequencer_frame s
    rw [h]
  rw [seqFinal, hX, hS, coreBlock]

/-- HASH on a usable state (R136). -/
theorem execHash_usable {s : State} (hv : s.VALID = true) (he : s.EXH = false) :
    ∃ x r, execHash s =
      .next (finish 0 { s with DOUT := coreBlock s.S, X := x, RIDX := r, draws := s.draws + 1 }) := by
  obtain ⟨t, ht⟩ := exec_next .hash s
  rcases exec_hash_cases ht with ⟨h, _⟩ | ⟨_, h, _⟩ | ⟨_, _, x, r, rfl⟩
  · simp [hv] at h
  · simp [he] at h
  · exact ⟨x, r, by rw [← seqFinal_runSequencer]; exact ht⟩

/-- BLOCK on a usable state with 1 to 64 bytes of data (R150). -/
theorem execBlock_usable {s : State} (hv : s.VALID = true) (he : s.EXH = false) (h0 : s.LEN.toNat ≠ 0)
    (h64 : ¬ 64 < s.LEN.toNat) :
    ∃ x r, execBlock s = .next (finish 0 { s with
      DOUT := xorChunk s.DIN (coreBlock s.S) s.LEN.toNat
      S := (counterIncrement s).S, EXH := (counterIncrement s).EXH
      X := x, RIDX := r, draws := s.draws + 1 }) := by
  obtain ⟨t, ht⟩ := exec_next .block s
  rcases exec_block_cases ht with
    ⟨h, _⟩ | ⟨_, h, _⟩ | ⟨_, _, h, _⟩ | ⟨_, _, h, _⟩ | ⟨_, _, _, _, x, r, rfl⟩
  · simp [hv] at h
  · simp [he] at h
  · exact absurd h h64
  · exact absurd h h0
  · exact ⟨x, r, by rw [← seqFinal_runSequencer]; exact ht⟩

/-! ### What a completion does to the registers depends on the registers only (70_reset_and_hazards.md R211) -/

/-- The registers an operation leaves, when it gives a next state. -/
def registersAfter : Host.Outcome State Fault Refusal → Option State
  | .next t => some t.registers
  | .fault _ => none
  | .refused _ => none

@[simp] theorem registersAfter_next (t : State) : registersAfter (.next t) = some t.registers := rfl

@[simp] theorem registers_registers (s : State) : s.registers.registers = s.registers := rfl
@[simp] theorem registers_PEND (s : State) : s.registers.PEND = s.PEND := rfl
@[simp] theorem registers_KLEN (s : State) : s.registers.KLEN = s.KLEN := rfl
@[simp] theorem registers_NLEN (s : State) : s.registers.NLEN = s.NLEN := rfl
@[simp] theorem registers_LEN (s : State) : s.registers.LEN = s.LEN := rfl
@[simp] theorem registers_BUSY (s : State) : s.registers.BUSY = s.BUSY := rfl
@[simp] theorem registers_VALID (s : State) : s.registers.VALID = s.VALID := rfl
@[simp] theorem registers_EXH (s : State) : s.registers.EXH = s.EXH := rfl

@[simp] theorem finish_registers (c : BitVec 4) (s : State) : (finish c s).registers = finish c s.registers := rfl

/-- INIT leaves registers that depend on the registers before it only. -/
theorem registersAfter_execInit (s : State) : registersAfter (execInit s.registers) = registersAfter (execInit s) := by
  by_cases hk : s.KLEN ≠ 16#6 ∧ s.KLEN ≠ 32#6
  · simp [execInit, hk]
  · by_cases hn : s.NLEN ≠ 8#4
    · simp [execInit, hk, hn]
    · simp only [execInit, registers_KLEN, registers_NLEN, hk, hn, if_false]
      rfl

/-- HASH leaves registers that depend on the registers before it only. -/
theorem registersAfter_execHash (s : State) : registersAfter (execHash s.registers) = registersAfter (execHash s) := by
  cases hv : s.VALID with
  | false => simp [execHash, hv]
  | true =>
    cases he : s.EXH with
    | true => simp [execHash, hv, he]
    | false =>
      obtain ⟨x, r, h⟩ := execHash_usable hv he
      obtain ⟨x', r', h'⟩ := execHash_usable (s := s.registers) hv he
      rw [h, h']
      rfl

/-- BLOCK leaves registers that depend on the registers before it only. -/
theorem registersAfter_execBlock (s : State) : registersAfter (execBlock s.registers) = registersAfter (execBlock s) := by
  cases hv : s.VALID with
  | false => simp [execBlock, hv]
  | true =>
    cases he : s.EXH with
    | true => simp [execBlock, hv, he]
    | false =>
      by_cases hbad : 64 < s.LEN.toNat
      · simp [execBlock, hv, he, hbad]
      · by_cases hzero : s.LEN.toNat = 0
        · simp only [execBlock, registers_VALID, registers_EXH, registers_LEN, hv, he, hzero, if_true]
          rfl
        · obtain ⟨x, r, h⟩ := execBlock_usable hv he hzero hbad
          obtain ⟨x', r', h'⟩ := execBlock_usable (s := s.registers) hv he hzero hbad
          rw [h, h']
          rfl

/-- A completion step leaves registers that depend on the registers before it only. -/
theorem registersAfter_completeStep (s : State) :
    registersAfter (completeStep s.registers) = registersAfter (completeStep s) := by
  unfold completeStep
  rw [registers_PEND]
  rcases decodeCmd_cases s.PEND with ⟨_, e⟩ | ⟨_, e⟩ | ⟨_, e⟩ | ⟨_, e⟩ | ⟨_, e⟩ | ⟨_, e⟩ | ⟨_, e⟩ <;> rw [e]
  · rfl
  · exact registersAfter_execInit s
  · exact registersAfter_execBlock s
  · exact registersAfter_execHash s
  · rfl
  · rfl
  · rfl

/-! ### Polling while a command is pending (60_exceptions.md R178) -/

/-- A read while BUSY = 1 changes no register. -/
theorem clockEdge_busyRead_registers (a : BitVec 7) {s : State} (hb : s.BUSY = true) :
    ∃ t, clockEdge (busEdge (.rd a)) s = .next t ∧ t.registers = s.registers := by
  obtain ⟨v, n, h⟩ := busyReadReg_frame (regOf a) s
  refine ⟨busyReadReg (regOf a) s, ?_, ?_⟩
  · simp [clockEdge_busEdge_rd, exec, execRd, hb]
  · rw [h]
    rfl

/-- Any number of reads of one word while BUSY = 1 changes no register. -/
theorem runEdges_busyReads_registers (a : BitVec 7) (n : Nat) {s : State} (hb : s.BUSY = true) :
    ∃ t, runEdges (List.replicate n (busEdge (.rd a))) s = .next t ∧ t.registers = s.registers := by
  induction n generalizing s with
  | zero => exact ⟨s, rfl, rfl⟩
  | succ n ih =>
    obtain ⟨u, hu, hur⟩ := clockEdge_busyRead_registers a hb
    have hub : u.BUSY = true := by rw [← registers_BUSY, hur, registers_BUSY, hb]
    obtain ⟨t, ht, htr⟩ := ih hub
    exact ⟨t, by rw [List.replicate_succ, runEdges_cons_next hu, ht], htr.trans hur⟩

/-- Settles O53: the polls between issue and completion change no register, and the completion looks at registers
only. -/
theorem foldedModelAgrees : Obligations.FoldedModelAgrees := by
  intro s v polls hb
  have hissue : clockEdge (busEdge (hostWr .cmd v)) s = .next (startCommand v s) := clockEdge_hostWr .cmd v hb
  obtain ⟨w, hpolls, hw⟩ :=
    runEdges_busyReads_registers (waddr .status) polls (s := startCommand v s) (startCommand_BUSY v s)
  have hwb : w.BUSY = true := by rw [← registers_BUSY, hw, registers_BUSY, startCommand_BUSY]
  obtain ⟨t, ht⟩ := completeStep_next w
  obtain ⟨u, hu⟩ := completeStep_next (startCommand v s)
  refine ⟨t, u, ?_, hu, ?_⟩
  · rw [List.append_assoc, List.singleton_append, runEdges_cons_next hissue, hostRd, runEdges_append_next hpolls,
      runEdges_cons_next (t := t) (by rw [clockEdge_quiet, if_pos hwb, ht]), runEdges_nil]
  · have h : registersAfter (completeStep w) = registersAfter (completeStep (startCommand v s)) := by
      rw [← registersAfter_completeStep w, hw, registersAfter_completeStep]
    rw [ht, hu] at h
    exact Option.some.inj h

/-! ### The rotation (00_scope.md R11) -/

/-- Settles O18: the left shift carries the bits of `v` below `32 - n`, and the right shift carries the others. -/
theorem rotlIsLeftRotation : Obligations.RotlIsLeftRotation := by
  intro v n i hn0 hn hi
  rw [rotl, BitVec.getLsbD_or, BitVec.getLsbD_shiftLeft, BitVec.getLsbD_ushiftRight]
  by_cases h : i + n < 32
  · have hright : v.getLsbD (32 - n + (i + n)) = false := BitVec.getLsbD_of_ge v _ (by omega)
    rw [Nat.mod_eq_of_lt h, hright]
    simp [h]
  · have hmod : (i + n) % 32 = i + n - 32 := by omega
    have hlow : i + n - 32 < n := by omega
    have hsource : 32 - n + (i + n - 32) = i := by omega
    rw [hmod, hsource]
    simp [hlow]

/-! ### The step and its bus transaction (00_scope.md R6) -/

/-- Settles O6: the step is the clock edge of the oldest input, and no command completes at that edge. -/
theorem stepRunsTheBusTransaction : Obligations.StepRunsTheBusTransaction := by
  intro s t done rest hin hidle
  have hd : (done && s.BUSY) = false := by
    rcases hidle with h | h
    · rw [h, Bool.false_and]
    · rw [h, Bool.and_false]
  rw [step_of_edge hin]
  exact clockEdge_bus rfl rfl hd

end Sys2Proof.Machine
end

section
/-! SUPPORT. The statements of the state (10_state.md): what a completion and a step can do to each group of registers, the
writers of every register, the unit's invariant, and the hidden registers. -/

namespace Sys2Proof.Machine

/-! ### The registers a command completion writes, and those the host writes -/

/-- The registers of the cipher are those of `s` in `t`: nothing but a completion or a reset writes them (R23, R36, R37,
R39, R40). -/
structure CipherKept (s t : State) : Prop where
  ROM : t.ROM = s.ROM
  S : t.S = s.S
  VALID : t.VALID = s.VALID
  EXH : t.EXH = s.EXH
  KSEL : t.KSEL = s.KSEL
  ERR : t.ERR = s.ERR

/-- The registers that hold a command's operands are those of `s` in `t` (R28, R29, R30, R32, R33, R34). -/
structure OperandsKept (s t : State) : Prop where
  KEY : t.KEY = s.KEY
  NONCE : t.NONCE = s.NONCE
  DIN : t.DIN = s.DIN
  QR : t.QR = s.QR
  KLEN : t.KLEN = s.KLEN
  NLEN : t.NLEN = s.NLEN
  LEN : t.LEN = s.LEN

/-- A write while BUSY = 0 reaches neither the cipher's registers nor DOUT (R54). -/
theorem writeReg_keeps (r : Reg) (v : Word) (s : State) :
    CipherKept s (writeReg r v s) ∧ (writeReg r v s).DOUT = s.DOUT := by
  obtain ⟨_, _, _, _, _, _, _, _, _, _, h, -⟩ := writeReg_frame r v s
  rw [h]
  exact ⟨⟨rfl, rfl, rfl, rfl, rfl, rfl⟩, rfl⟩

/-! ### What a completion can do (60_exceptions.md R176) -/

/-- The code `c` is one that a command reports with the flags of `s` (R171, R179). -/
structure CodeFits (c : BitVec 4) (s : State) : Prop where
  named : c.toNat ≤ 6
  notInitialised : c = 3 → s.VALID = false
  badDataLength : c = 4 → s.VALID = true ∧ s.EXH = false
  counterExhausted : c = 5 → s.VALID = true ∧ s.EXH = true

/-- The codes 0, 1, 2 and 6 fit any flags (R171). -/
theorem codeFits_of_ne {c : BitVec 4} (s : State) (hc : c.toNat ≤ 6) (h3 : c ≠ 3) (h4 : c ≠ 4) (h5 : c ≠ 5) :
    CodeFits c s :=
  ⟨hc, fun h => absurd h h3, fun h => absurd h h4, fun h => absurd h h5⟩

theorem codeFits_zero (s : State) : CodeFits 0 s :=
  codeFits_of_ne s (by decide) (by decide) (by decide) (by decide)

theorem codeFits_notInitialised {s : State} (hv : s.VALID = false) : CodeFits 3 s :=
  ⟨by decide, fun _ => hv, by simp, by simp⟩

theorem codeFits_badDataLength {s : State} (hv : s.VALID = true) (he : s.EXH = false) : CodeFits 4 s :=
  ⟨by decide, by simp, fun _ => ⟨hv, he⟩, by simp⟩

theorem codeFits_counterExhausted {s : State} (hv : s.VALID = true) (he : s.EXH = true) : CodeFits 5 s :=
  ⟨by decide, by simp, by simp, fun _ => ⟨hv, he⟩⟩

/-- Everything a completion step can be: a result code and nothing else, or one of the six successes that write more. -/
inductive Completion (s t : State) : Prop where
  /-- NOP, and every command that ends with an error (R106, R173). -/
  | reports (c : BitVec 4) (hc : CodeFits c s) (ht : t = finish c s)
  /-- INIT with legal lengths (R103). -/
  | builds (hd : decodeCmd s.PEND = .ok .init) (hk : s.KLEN = 16#6 ∨ s.KLEN = 32#6)
      (ht : t = finish 0 { s with
        S := initialLayout (selectConstants s.KLEN s.ROM) s.KEY (secondQuadrant s.KLEN s.KEY) s.NONCE
        VALID := true, EXH := false, KSEL := decide (s.KLEN = 16#6) })
  /-- BLOCK of length 0 (R154). -/
  | clearsOutput (hd : decodeCmd s.PEND = .ok .block) (ht : t = finish 0 { s with DOUT := Vector.replicate 16 0 })
  /-- BLOCK of at least one byte (R150). -/
  | usesBlock (D X : Words 16) (r : Fin 21) (hd : decodeCmd s.PEND = .ok .block) (hv : s.VALID = true)
      (he : s.EXH = false) (hl : 1 ≤ s.LEN.toNat)
      (ht : t = finish 0 { s with
        DOUT := D, S := (counterIncrement s).S, EXH := (counterIncrement s).EXH
        X := X, RIDX := r, draws := s.draws + 1 })
  /-- HASH (R136). -/
  | hashes (D X : Words 16) (r : Fin 21) (hd : decodeCmd s.PEND = .ok .hash)
      (ht : t = finish 0 { s with DOUT := D, X := X, RIDX := r, draws := s.draws + 1 })
  /-- QR (R135). -/
  | quarterround (q : Words 4) (hd : decodeCmd s.PEND = .ok .qr) (ht : t = finish 0 { s with QR := q })
  /-- CLEAR (R105). -/
  | clears (hd : decodeCmd s.PEND = .ok .clear)
      (ht : t = finish 0 { s with
        S := Vector.replicate 16 0, KEY := Vector.replicate 8 0, NONCE := Vector.replicate 2 0
        DIN := Vector.replicate 16 0, DOUT := Vector.replicate 16 0, QR := Vector.replicate 4 0
        VALID := false, EXH := false, WERR := false, KSEL := false })

/-- A completion step is one of these. -/
theorem completion_of_completeStep {s t : State} (h : completeStep s = .next t) : Completion s t := by
  rcases completeStep_cases h with
    ⟨-, ht⟩ | ⟨hd, hx⟩ | ⟨hd, hx⟩ | ⟨hd, hx⟩ | ⟨hd, hx⟩ | ⟨hd, hx⟩ | ⟨-, ht⟩
  · exact .reports 0 (codeFits_zero s) ht
  · rcases exec_init_cases hx with ⟨-, -, ht⟩ | ⟨-, -, ht⟩ | ⟨hk, -, ht⟩
    · exact .reports 1 (codeFits_of_ne s (by decide) (by decide) (by decide) (by decide)) ht
    · exact .reports 2 (codeFits_of_ne s (by decide) (by decide) (by decide) (by decide)) ht
    · exact .builds hd hk ht
  · rcases exec_block_cases hx with
      ⟨hv, ht⟩ | ⟨hv, he, ht⟩ | ⟨hv, he, -, ht⟩ | ⟨-, -, -, ht⟩ | ⟨hv, he, hl, -, x, r, ht⟩
    · exact .reports 3 (codeFits_notInitialised hv) ht
    · exact .reports 5 (codeFits_counterExhausted hv he) ht
    · exact .reports 4 (codeFits_badDataLength hv he) ht
    · exact .clearsOutput hd ht
    · exact .usesBlock _ x r hd hv he hl ht
  · rcases exec_hash_cases hx with ⟨hv, ht⟩ | ⟨hv, he, ht⟩ | ⟨-, -, x, r, ht⟩
    · exact .reports 3 (codeFits_notInitialised hv) ht
    · exact .reports 5 (codeFits_counterExhausted hv he) ht
    · exact .hashes _ x r hd ht
  · obtain ⟨q, ht⟩ := exec_qr_eq hx
    exact .quarterround q hd ht
  · exact .clears hd (exec_clear_eq hx)
  · exact .reports 6 (codeFits_of_ne s (by decide) (by decide) (by decide) (by decide)) ht

/-! ### What a step can do to the registers but WERR -/

/-- Everything a step can be, for the registers of the cipher, the operands and DOUT. -/
inductive StepEffect (s t : State) : Prop where
  /-- A reset (R200). -/
  | reset (h : s.Resets) (bus : Option Txn) (ht : t = resetEdge bus (takeInput s))
  /-- An edge at which nothing completes: only an accepted write reaches the operands. -/
  | access (hk : CipherKept s t) (hD : t.DOUT = s.DOUT)
      (ho : (s.BUSY = true ∨ ¬ ∃ a v, s.HostWrites a v) → OperandsKept s t)
  /-- A completion, from `u` to `v`: a transaction at the same edge changes nothing here (R181 (c)). -/
  | completion (u v : State) (h : s.CompletesSome) (hp : u.PEND = s.PEND) (hku : CipherKept s u)
      (hou : OperandsKept s u) (hDu : u.DOUT = s.DOUT) (hc : Completion u v) (hkt : CipherKept v t)
      (hot : OperandsKept v t) (hDt : t.DOUT = v.DOUT)

/-- A step that gives a next state is one of these. -/
theorem stepEffect_of_step {s t : State} (h : step s = .next t) : StepEffect s t := by
  cases stepIs_of_step h with
  | reset e he hr ht => exact .reset ⟨e, he, hr⟩ e.bus ht
  | idleWrite e x a d he hr hx hw hB ht =>
    obtain ⟨⟨hROM, hS, hV, hE, hK, hR⟩, hD⟩ := writeReg_keeps (regOf a) d (takeInput s)
    subst ht
    refine .access ⟨hROM, hS, hV, hE, hK, hR⟩ hD ?_
    rintro (hbusy | hnone)
    · simp [hB] at hbusy
    · exact absurd ⟨a, d, e, x, he, hr, hx, hw⟩ hnone
  | completion e u v w w' rs n n' he hr hB hd hu hw hv ht hw' =>
    subst hu ht
    exact .completion { takeInput s with WERR := w, reads := rs, draws := n } v ⟨e, he, hr, hd, hB⟩ rfl
      ⟨rfl, rfl, rfl, rfl, rfl, rfl⟩ ⟨rfl, rfl, rfl, rfl, rfl, rfl, rfl⟩ rfl (completion_of_completeStep hv)
      ⟨rfl, rfl, rfl, rfl, rfl, rfl⟩ ⟨rfl, rfl, rfl, rfl, rfl, rfl, rfl⟩ rfl
  | _ =>
    subst_vars
    exact .access ⟨rfl, rfl, rfl, rfl, rfl, rfl⟩ rfl fun _ => ⟨rfl, rfl, rfl, rfl, rfl, rfl, rfl⟩

/-- The completing command is the one in PEND. -/
theorem completes_of_pend {s u : State} {i : Instr} (h : s.CompletesSome) (hp : u.PEND = s.PEND)
    (hd : decodeCmd u.PEND = .ok i) : s.Completes i := by
  obtain ⟨e, he, hr, hdone, hB⟩ := h
  exact ⟨e, he, hr, hdone, hB, hp ▸ hd⟩

/-- The word in PEND is that of the completing command. -/
theorem pend_of_completes {s u : State} {i : Instr} (h : s.Completes i) (hp : u.PEND = s.PEND) :
    decodeCmd u.PEND = .ok i := by
  obtain ⟨_, _, _, _, _, hd⟩ := h
  rw [hp, hd]

/-- A step that completes a command is no reset (R181 (b)). -/
theorem not_resets_of_completes {s : State} {i : Instr} (h : s.Completes i) : ¬ s.Resets := by
  rintro ⟨e, he, hr⟩
  obtain ⟨e', he', hr', -⟩ := h
  rw [he, Event.edge.injEq] at he'
  rw [← he', hr] at hr'
  exact Bool.false_ne_true hr'

/-! ### The counter's increment (42_keystream.md R152, R153) -/

/-- The increment keeps every word of `S` but the counter's (R152). -/
theorem counterIncrement_S_getElem (s : State) {i : Nat} (hi : i < 16) (h8 : i ≠ 8) (h9 : i ≠ 9) :
    (counterIncrement s).S[i] = s.S[i] := by
  simp only [counterIncrement]
  rw [Vector.getElem_set_ne _ _ h8.symm]
  split
  · rw [Vector.getElem_set_ne _ _ h9.symm]
  · rfl

/-- The increment sets EXH where the counter holds all ones, and nowhere else (R153). -/
theorem counterIncrement_EXH_eq_true {s : State} (he : s.EXH = false) :
    (counterIncrement s).EXH = true ↔ s.S[8] = 0xFFFFFFFF ∧ s.S[9] = 0xFFFFFFFF := by
  simp [counterIncrement, he]

/-- From all ones the counter wraps to (0, 0) (R153). -/
theorem counter_counterIncrement_wraps {s : State} (h8 : s.S[8] = 0xFFFFFFFF) (h9 : s.S[9] = 0xFFFFFFFF) :
    counter (counterIncrement s).S = 0 := by
  have h8' : (counterIncrement s).S[8] = 0 := by simp [counterIncrement, h8]
  have h9' : (counterIncrement s).S[9] = 0 := by simp [counterIncrement, h8, h9]
  rw [counter, h8', h9']
  rfl

/-! ### The invariant -/

/-- The invariant speaks of the cipher's registers only. -/
theorem CipherKept.inv {s t : State} (h : CipherKept s t) (hs : s.Inv) : t.Inv := by
  obtain ⟨hROM, hS, hV, hE, hK, hR⟩ := h
  obtain ⟨h1, h2, h3, h4, h5, h6, h7, h8⟩ := hs
  constructor <;> simpa only [recordedConstants, hROM, hS, hV, hE, hK, hR]

/-- With VALID, EXH, KSEL, ERR and `S` at 0 the invariant holds, whatever the other registers hold. -/
theorem inv_of_cleared {s : State} (hV : s.VALID = false) (hE : s.EXH = false) (hK : s.KSEL = false)
    (hR : s.ERR = 0) (hS : s.S = Vector.replicate 16 0) : s.Inv where
  err_named := by simp [hR]
  unbuilt _ := ⟨hE, hK, hS⟩
  exhausted h := by simp [hE] at h
  err_notInitialised _ := hV
  err_badDataLength h := by simp [hR] at h
  err_counterExhausted h := by simp [hR] at h
  constants h := by simp [hV] at h
  short_key h := by simp [hV] at h

/-- Reporting a code that fits the flags keeps the invariant. -/
theorem inv_finish {s : State} {c : BitVec 4} (hs : s.Inv) (hc : CodeFits c s) : (finish c s).Inv where
  err_named := hc.named
  unbuilt := hs.unbuilt
  exhausted := hs.exhausted
  err_notInitialised := hc.notInitialised
  err_badDataLength := hc.badDataLength
  err_counterExhausted := hc.counterExhausted
  constants := hs.constants
  short_key := hs.short_key

/-- A success that leaves the cipher's other registers alone keeps the invariant. -/
theorem inv_success {s t : State} (hs : s.Inv) (hROM : t.ROM = s.ROM) (hS : t.S = s.S) (hV : t.VALID = s.VALID)
    (hE : t.EXH = s.EXH) (hK : t.KSEL = s.KSEL) : (finish 0 t).Inv :=
  CipherKept.inv (s := finish 0 s) ⟨hROM, hS, hV, hE, hK, rfl⟩ (inv_finish hs (codeFits_zero s))

/-- INIT's layout has the constant set that KSEL records, and a short key twice (R21, R101, R102). -/
theorem inv_builds {s : State} (hk : s.KLEN = 16#6 ∨ s.KLEN = 32#6) :
    (finish 0 { s with
      S := initialLayout (selectConstants s.KLEN s.ROM) s.KEY (secondQuadrant s.KLEN s.KEY) s.NONCE
      VALID := true, EXH := false, KSEL := decide (s.KLEN = 16#6) }).Inv where
  err_named := Nat.zero_le 6
  unbuilt h := by simp at h
  exhausted h := by simp at h
  err_notInitialised h := by simp at h
  err_badDataLength h := by simp at h
  err_counterExhausted h := by simp at h
  constants _ := by
    rcases hk with h | h <;> simp [h, initialLayout, selectConstants, recordedConstants]
  short_key _ h := by
    have h16 : s.KLEN = 16#6 := by simpa using h
    simp [h16, initialLayout, secondQuadrant]

/-- A BLOCK that increments the counter keeps the constants and the key words, and sets EXH at (0, 0) only (R153). -/
theorem inv_usesBlock {s : State} (hs : s.Inv) (hv : s.VALID = true) (he : s.EXH = false) (D X : Words 16) (r : Fin 21) :
    (finish 0 { s with
      DOUT := D, S := (counterIncrement s).S, EXH := (counterIncrement s).EXH
      X := X, RIDX := r, draws := s.draws + 1 }).Inv where
  err_named := Nat.zero_le 6
  unbuilt h := by simp [hv] at h
  exhausted h := by
    obtain ⟨h8, h9⟩ := (counterIncrement_EXH_eq_true he).1 h
    exact counter_counterIncrement_wraps h8 h9
  err_notInitialised h := by simp at h
  err_badDataLength h := by simp at h
  err_counterExhausted h := by simp at h
  constants h := by
    simp only [finish_S, counterIncrement_S_getElem, ne_eq, Nat.reduceEqDiff, not_false_eq_true]
    exact hs.constants h
  short_key h hK := by
    simpa [counterIncrement_S_getElem] using hs.short_key h hK

/-- A completion keeps the invariant. -/
theorem Completion.inv {s t : State} (h : Completion s t) (hs : s.Inv) : t.Inv := by
  cases h with
  | reports c hc ht => exact ht ▸ inv_finish hs hc
  | builds hd hk ht => exact ht ▸ inv_builds hk
  | clearsOutput hd ht => exact ht ▸ inv_success hs rfl rfl rfl rfl rfl
  | usesBlock D X r hd hv he hl ht => exact ht ▸ inv_usesBlock hs hv he D X r
  | hashes D X r hd ht => exact ht ▸ inv_success hs rfl rfl rfl rfl rfl
  | quarterround q hd ht => exact ht ▸ inv_success hs rfl rfl rfl rfl rfl
  | clears hd ht => exact ht ▸ inv_of_cleared rfl rfl rfl rfl rfl

/-- Settles O43: an access touches nothing the invariant speaks of, a reset zeroes it, and each completion keeps it. -/
theorem everyStepKeepsTheInvariant : Obligations.EveryStepKeepsTheInvariant := by
  intro s t hs h
  cases stepEffect_of_step h with
  | reset _ bus ht => exact ht ▸ inv_of_cleared rfl rfl rfl rfl rfl
  | access hk _ _ => exact hk.inv hs
  | completion u v _ _ hku _ _ hc hkt _ _ => exact hkt.inv (hc.inv (hku.inv hs))

/-- Settles O44: reset clears everything the invariant speaks of. -/
theorem resetHasTheInvariant : Obligations.ResetHasTheInvariant :=
  inv_of_cleared rfl rfl rfl rfl rfl

/-! ### The hidden registers `X` and `RIDX` (R25, R26) -/

/-- `s` with other values in the hidden registers. -/
def State.withHidden (s : State) (x : Words 16) (r : Fin 21) : State := { s with X := x, RIDX := r }

@[simp] theorem withHidden_PEND (s : State) (x : Words 16) (r : Fin 21) : (s.withHidden x r).PEND = s.PEND := rfl
@[simp] theorem withHidden_BUSY (s : State) (x : Words 16) (r : Fin 21) : (s.withHidden x r).BUSY = s.BUSY := rfl

/-- `seq_start` overwrites both hidden registers, so the sequencer's result does not depend on them (R131). -/
@[simp] theorem runSequencer_withHidden (s : State) (x : Words 16) (r : Fin 21) :
    runSequencer (s.withHidden x r) = runSequencer s := rfl

@[simp] theorem clearMeetsWrite_withHidden (y : Txn) (s : State) (x : Words 16) (r : Fin 21) :
    clearMeetsWrite y (s.withHidden x r) = clearMeetsWrite y s := rfl

/-- Two operations answer alike but for the hidden registers. -/
def AlikeButHidden (o o' : Host.Outcome State Fault Refusal) : Prop :=
  ∀ t, o = .next t → ∃ x r, o' = .next (t.withHidden x r)

/-- Two next states that are alike but for the hidden registers. -/
theorem alikeButHidden_next {t t' : State} (x : Words 16) (r : Fin 21) (h : t' = t.withHidden x r) :
    AlikeButHidden (.next t) (.next t') := by
  rintro _ ⟨⟩
  exact ⟨x, r, by rw [h]⟩

/-- A choice that does not look at the hidden registers is alike where its branches are. -/
theorem alikeButHidden_ite {c : Prop} [Decidable c] {a b a' b' : Host.Outcome State Fault Refusal}
    (ha : AlikeButHidden a a') (hb : AlikeButHidden b b') :
    AlikeButHidden (if c then a else b) (if c then a' else b') := by
  split
  · exact ha
  · exact hb

theorem busyReadReg_withHidden (q : Reg) (s : State) (x : Words 16) (r : Fin 21) :
    busyReadReg q (s.withHidden x r) = (busyReadReg q s).withHidden x r := by
  cases q <;> rfl

theorem readReg_withHidden (q : Reg) (s : State) (x : Words 16) (r : Fin 21) :
    readReg q (s.withHidden x r) = readReg q s := by
  cases q <;> rfl

theorem writeReg_withHidden (q : Reg) (v : Word) (s : State) (x : Words 16) (r : Fin 21) :
    writeReg q v (s.withHidden x r) = (writeReg q v s).withHidden x r := by
  cases q <;> rfl

/-- INIT does not look at the hidden registers. -/
theorem execInit_alikeButHidden (s : State) (x : Words 16) (r : Fin 21) :
    AlikeButHidden (execInit s) (execInit (s.withHidden x r)) := by
  unfold execInit
  exact alikeButHidden_ite (alikeButHidden_next x r rfl)
    (alikeButHidden_ite (alikeButHidden_next x r rfl) (alikeButHidden_next x r rfl))

/-- HASH does not look at the hidden registers, and its success leaves the same values in them. -/
theorem execHash_alikeButHidden (s : State) (x : Words 16) (r : Fin 21) :
    AlikeButHidden (execHash s) (execHash (s.withHidden x r)) := by
  unfold execHash
  rw [runSequencer_withHidden]
  generalize runSequencer s = w
  exact alikeButHidden_ite (alikeButHidden_next x r rfl)
    (alikeButHidden_ite (alikeButHidden_next x r rfl)
      (alikeButHidden_next (Config.hiddenX w.draws) (Config.hiddenRIDX w.draws) rfl))

/-- BLOCK does not look at the hidden registers, and a block it produces leaves the same values in them. -/
theorem execBlock_alikeButHidden (s : State) (x : Words 16) (r : Fin 21) :
    AlikeButHidden (execBlock s) (execBlock (s.withHidden x r)) := by
  unfold execBlock
  rw [runSequencer_withHidden]
  generalize runSequencer s = w
  exact alikeButHidden_ite (alikeButHidden_next x r rfl)
    (alikeButHidden_ite (alikeButHidden_next x r rfl)
      (alikeButHidden_ite (alikeButHidden_next x r rfl)
        (alikeButHidden_ite (alikeButHidden_next x r rfl)
          (alikeButHidden_next (Config.hiddenX w.draws) (Config.hiddenRIDX w.draws) rfl))))

/-- A read does not look at the hidden registers (R53, R178). -/
theorem execRd_alikeButHidden (a : BitVec 7) (s : State) (x : Words 16) (r : Fin 21) :
    AlikeButHidden (execRd a s) (execRd a (s.withHidden x r)) := by
  unfold execRd
  rw [busyReadReg_withHidden, readReg_withHidden]
  exact alikeButHidden_ite (alikeButHidden_next x r rfl) (alikeButHidden_next x r rfl)

/-- A write does not look at the hidden registers (R54, R177). -/
theorem execWr_alikeButHidden (a : BitVec 7) (v : Word) (s : State) (x : Words 16) (r : Fin 21) :
    AlikeButHidden (execWr a v s) (execWr a v (s.withHidden x r)) := by
  unfold execWr
  rw [writeReg_withHidden]
  exact alikeButHidden_ite (alikeButHidden_next x r rfl) (alikeButHidden_next x r rfl)

/-- No instruction looks at the hidden registers. -/
theorem exec_alikeButHidden (i : Instr) (s : State) (x : Words 16) (r : Fin 21) :
    AlikeButHidden (exec i s) (exec i (s.withHidden x r)) := by
  cases i with
  | nop => exact alikeButHidden_next x r rfl
  | init => exact execInit_alikeButHidden s x r
  | block => exact execBlock_alikeButHidden s x r
  | hash => exact execHash_alikeButHidden s x r
  | qr => exact alikeButHidden_next x r rfl
  | clear => exact alikeButHidden_next x r rfl
  | rd a => exact execRd_alikeButHidden a s x r
  | wr a v => exact execWr_alikeButHidden a v s x r

/-- No completion looks at the hidden registers. -/
theorem completeStep_alikeButHidden (s : State) (x : Words 16) (r : Fin 21) :
    AlikeButHidden (completeStep s) (completeStep (s.withHidden x r)) := by
  simp only [completeStep, withHidden_PEND]
  split
  · exact exec_alikeButHidden _ s x r
  · exact alikeButHidden_next x r rfl

/-- No clock edge looks at the hidden registers. -/
theorem clockEdge_alikeButHidden (e : Edge) (s : State) (x : Words 16) (r : Fin 21) :
    AlikeButHidden (clockEdge e s) (clockEdge e (s.withHidden x r)) := by
  intro t h
  rcases clockEdge_cases h with
    ⟨hr, rfl⟩ | ⟨hr, hb, hd, rfl⟩ | ⟨hr, hb, hd, hB, hc⟩ | ⟨hr, hd, y, hy, hx⟩ | ⟨hr, hd, hB, y, u, v, hy, hu, hv, rfl⟩
  · exact ⟨State.reset.X, State.reset.RIDX, if_pos hr⟩
  · exact ⟨x, r, by simp only [clockEdge, hr, hb, withHidden_BUSY, hd]; rfl⟩
  · obtain ⟨x', r', hc'⟩ := completeStep_alikeButHidden s x r t hc
    exact ⟨x', r', by simp [clockEdge, hr, hb, hd, hB, hc']⟩
  · obtain ⟨x', r', hx'⟩ := exec_alikeButHidden _ s x r t hx
    exact ⟨x', r', by rw [clockEdge_bus (s := s.withHidden x r) hr hy hd, hx']⟩
  · obtain ⟨x₁, r₁, hu'⟩ := exec_alikeButHidden _ s x r u hu
    obtain ⟨x₂, r₂, hv'⟩ := completeStep_alikeButHidden u x₁ r₁ v hv
    refine ⟨x₂, r₂, ?_⟩
    rw [clockEdge_bus_completing (s := s.withHidden x r) hr hy hd hB hu' hv', clearMeetsWrite_withHidden]
    split <;> rfl

/-- Settles O52: the next event is the same, and no clock edge looks at the hidden registers. -/
theorem hiddenStateIsUnobservable : Obligations.HiddenStateIsUnobservable := by
  intro s t x r h
  obtain ⟨e, he, hc⟩ := step_cases h
  obtain ⟨x', r', hc'⟩ := clockEdge_alikeButHidden e (takeInput s) x r t hc
  have he' : nextEvent { s with X := x, RIDX := r } = .edge e := he
  exact ⟨x', r', by rw [step, he']; exact hc'⟩

/-! ### Which steps write the flags and the cipher state -/

/-- Only INIT and CLEAR write VALID and KSEL (R36, R39). -/
theorem Completion.valid_ksel_kept {s t : State} (h : Completion s t) :
    (t.VALID = s.VALID ∧ t.KSEL = s.KSEL) ∨ decodeCmd s.PEND = .ok .init ∨ decodeCmd s.PEND = .ok .clear := by
  cases h with
  | builds hd hk ht => exact .inr (.inl hd)
  | clears hd ht => exact .inr (.inr hd)
  | _ => subst_vars; exact .inl ⟨rfl, rfl⟩

/-- Only a successful INIT, a BLOCK from the counter of all ones and CLEAR write EXH (R37, R153). -/
theorem Completion.exh_kept {s t : State} (h : Completion s t) :
    t.EXH = s.EXH ∨ (decodeCmd s.PEND = .ok .init ∧ t.ERR = 0 ∧ t.EXH = false) ∨
    (decodeCmd s.PEND = .ok .clear ∧ t.EXH = false) ∨
    (decodeCmd s.PEND = .ok .block ∧ t.ERR = 0 ∧ t.EXH = true ∧ s.S[8] = 0xFFFFFFFF ∧ s.S[9] = 0xFFFFFFFF) := by
  cases h with
  | builds hd hk ht => exact .inr (.inl ⟨hd, ht ▸ ⟨rfl, rfl⟩⟩)
  | clears hd ht => exact .inr (.inr (.inl ⟨hd, ht ▸ rfl⟩))
  | usesBlock D X r hd hv he hl ht =>
    subst ht
    by_cases hx : (counterIncrement s).EXH = true
    · exact .inr (.inr (.inr ⟨hd, rfl, hx, (counterIncrement_EXH_eq_true he).1 hx⟩))
    · exact .inl ((Bool.eq_false_of_not_eq_true hx).trans he.symm)
  | _ => subst_vars; exact .inl rfl

/-- Only CLEAR writes WERR (R38). -/
theorem Completion.werr_kept {s t : State} (h : Completion s t) :
    t.WERR = s.WERR ∨ (decodeCmd s.PEND = .ok .clear ∧ t.WERR = false) := by
  cases h with
  | clears hd ht => exact .inr ⟨hd, ht ▸ rfl⟩
  | _ => subst_vars; exact .inl rfl

/-- Only a successful INIT, a successful BLOCK of at least one byte and CLEAR write `S`, and BLOCK only the counter words
(R23, R24). -/
theorem Completion.s_kept {s t : State} (h : Completion s t) :
    t.S = s.S ∨ (decodeCmd s.PEND = .ok .init ∧ t.ERR = 0) ∨ decodeCmd s.PEND = .ok .clear ∨
    (decodeCmd s.PEND = .ok .block ∧ t.ERR = 0 ∧ 1 ≤ s.LEN.toNat ∧
      ∀ i : Fin 16, i ≠ 8 → i ≠ 9 → t.S[i] = s.S[i]) := by
  cases h with
  | builds hd hk ht => exact .inr (.inl ⟨hd, ht ▸ rfl⟩)
  | clears hd ht => exact .inr (.inr (.inl hd))
  | usesBlock D X r hd hv he hl ht =>
    subst ht
    refine .inr (.inr (.inr ⟨hd, rfl, hl, fun i h8 h9 => ?_⟩))
    exact counterIncrement_S_getElem s i.isLt (fun h => h8 (Fin.ext h)) (fun h => h9 (Fin.ext h))
  | _ => subst_vars; exact .inl rfl

/-- No completion writes the constant sets (R100). -/
theorem Completion.rom_kept {s t : State} (h : Completion s t) : t.ROM = s.ROM := by
  cases h <;> subst_vars <;> rfl

/-- Only CLEAR writes the operand registers, and QR its own (R28, R29, R30, R32, R33, R34). -/
theorem Completion.operands_kept {s t : State} (h : Completion s t) :
    (∃ q, OperandsKept { s with QR := q } t ∧ (q ≠ s.QR → decodeCmd s.PEND = .ok .qr)) ∨
    decodeCmd s.PEND = .ok .clear := by
  cases h with
  | clears hd ht => exact .inr hd
  | quarterround q hd ht => exact .inl ⟨q, ht ▸ ⟨rfl, rfl, rfl, rfl, rfl, rfl, rfl⟩, fun _ => hd⟩
  | _ => subst_vars; exact .inl ⟨s.QR, ⟨rfl, rfl, rfl, rfl, rfl, rfl, rfl⟩, fun h => absurd rfl h⟩

/-- Only CLEAR, a successful HASH and a successful BLOCK write DOUT (R31). -/
theorem Completion.dout_kept {s t : State} (h : Completion s t) :
    t.DOUT = s.DOUT ∨ decodeCmd s.PEND = .ok .clear ∨
    ((decodeCmd s.PEND = .ok .hash ∨ decodeCmd s.PEND = .ok .block) ∧ t.ERR = 0) := by
  cases h with
  | clears hd ht => exact .inr (.inl hd)
  | clearsOutput hd ht => exact .inr (.inr ⟨.inr hd, ht ▸ rfl⟩)
  | usesBlock D X r hd hv he hl ht => exact .inr (.inr ⟨.inr hd, ht ▸ rfl⟩)
  | hashes D X r hd ht => exact .inr (.inr ⟨.inl hd, ht ▸ rfl⟩)
  | _ => subst_vars; exact .inl rfl

/-- Settles O46: a completion that is neither INIT nor CLEAR keeps VALID and KSEL. -/
theorem validKselErrWriters : Obligations.ValidKselErrWriters := by
  intro s t h
  cases stepEffect_of_step h with
  | reset hr _ _ => exact ⟨fun _ => .inr (.inr hr), fun _ => .inr (.inr hr), fun _ => .inr hr⟩
  | access hk _ _ => exact ⟨fun h => absurd hk.VALID h, fun h => absurd hk.KSEL h, fun h => absurd hk.ERR h⟩
  | completion u v hs hp hku _ _ hc hkt _ _ =>
    rcases hc.valid_ksel_kept with ⟨hV, hK⟩ | hd | hd
    · exact ⟨fun h => absurd (hkt.VALID.trans (hV.trans hku.VALID)) h,
        fun h => absurd (hkt.KSEL.trans (hK.trans hku.KSEL)) h, fun _ => .inl hs⟩
    · have hi := completes_of_pend hs hp hd
      exact ⟨fun _ => .inl hi, fun _ => .inl hi, fun _ => .inl hs⟩
    · have hi := completes_of_pend hs hp hd
      exact ⟨fun _ => .inr (.inl hi), fun _ => .inr (.inl hi), fun _ => .inl hs⟩

section Flags

variable {b b' : Bool} {P Q : Prop}

/-- A flag that keeps its value is neither set nor cleared. -/
theorem flag_kept (h : b' = b) : (b = false → b' = true → P) ∧ (b = true → b' = false → Q) := by
  subst h
  exact ⟨fun h0 h1 => by simp [h0] at h1, fun h1 h0 => by simp [h1] at h0⟩

/-- A flag that is 1 afterwards has not been cleared. -/
theorem flag_set (h : b' = true) (hP : P) : (b = false → b' = true → P) ∧ (b = true → b' = false → Q) :=
  ⟨fun _ _ => hP, fun _ h0 => by simp [h] at h0⟩

/-- A flag that is 0 afterwards has not been set. -/
theorem flag_cleared (h : b' = false) (hQ : Q) : (b = false → b' = true → P) ∧ (b = true → b' = false → Q) :=
  ⟨fun _ h1 => by simp [h] at h1, fun _ _ => hQ⟩

end Flags

/-- Settles O47: EXH is kept but by the four writers, each of which writes one value. -/
theorem exhaustedFlagWriters : Obligations.ExhaustedFlagWriters := by
  intro s t h
  cases stepEffect_of_step h with
  | reset hr bus ht => exact flag_cleared (ht ▸ rfl) (.inr (.inr hr))
  | access hk _ _ => exact flag_kept hk.EXH
  | completion u v hs hp hku _ _ hc hkt _ _ =>
    rcases hc.exh_kept with hE | ⟨hd, h0, hE⟩ | ⟨hd, hE⟩ | ⟨hd, h0, hE, h8, h9⟩
    · exact flag_kept (hkt.EXH.trans (hE.trans hku.EXH))
    · exact flag_cleared (hkt.EXH.trans hE) (.inl ⟨completes_of_pend hs hp hd, hkt.ERR.trans h0⟩)
    · exact flag_cleared (hkt.EXH.trans hE) (.inr (.inl (completes_of_pend hs hp hd)))
    · rw [hku.S] at h8 h9
      exact flag_set (hkt.EXH.trans hE) ⟨completes_of_pend hs hp hd, hkt.ERR.trans h0, h8, h9⟩

/-- A write while BUSY = 0 clears WERR only as STATUS bit 3, and never sets it (R38, R54). -/
theorem writeReg_WERR (a : BitVec 7) (v : Word) (s : State) :
    (writeReg (regOf a) v s).WERR = s.WERR ∨
    (a = 2 ∧ v.getLsbD 3 = true ∧ (writeReg (regOf a) v s).WERR = false) := by
  by_cases ha : regOf a = .status
  · rw [ha]
    by_cases hv : v.getLsbD 3 = true
    · exact .inr ⟨(regOf_eq_status a).1 ha, hv, by simp [writeReg, writeStatus, hv]⟩
    · exact .inl (by simp only [writeReg, writeStatus, if_neg hv])
  · obtain ⟨_, _, _, _, _, _, _, _, _, _, h, -, -, hw⟩ := writeReg_frame (regOf a) v s
    exact .inl (by rw [h]; exact hw ha)

/-- Settles O48: a dropped write sets WERR, and a completion clears it only as CLEAR. -/
theorem writeErrorFlagWriters : Obligations.WriteErrorFlagWriters := by
  intro s t h
  cases stepIs_of_step h with
  | reset e he hr ht => exact flag_cleared (ht ▸ rfl) (.inr (.inr ⟨e, he, hr⟩))
  | idle e he hr hb hd ht => exact flag_kept (ht ▸ rfl)
  | busyWrite e x a d he hr hx hw hB hd ht => exact flag_set (ht ▸ rfl) ⟨hB, a, d, e, x, he, hr, hx, hw⟩
  | busyRead e x a w n he hr hx hw hB hd ht => exact flag_kept (ht ▸ rfl)
  | idleWrite e x a d he hr hx hw hB ht =>
    subst ht
    rcases writeReg_WERR a d (takeInput s) with hkept | ⟨rfl, hv, h0⟩
    · exact flag_kept hkept
    · exact flag_cleared h0 (.inl ⟨hB, d, ⟨e, x, he, hr, hx, hw⟩, hv⟩)
  | idleRead e x a w he hr hx hw hB ht => exact flag_kept (ht ▸ rfl)
  | completion e u v w w' rs n n' he hr hB hd hu hw hv ht hw' =>
    have hwrites : WritesAt e → s.BUSY = true ∧ ∃ a v, s.HostWrites a v := fun ⟨x, a, d, hx, hdec⟩ =>
      ⟨hB, a, d, e, x, he, hr, hx, hdec⟩
    have hclears (hp : decodeCmd s.PEND = .ok .clear) : s.Completes .clear := ⟨e, he, hr, hd, hB, hp⟩
    subst hu ht
    rcases hw' with rfl | ⟨hp, hwr⟩
    · rcases (completion_of_completeStep hv).werr_kept with hkept | ⟨hp, h0⟩
      · rcases hw with rfl | ⟨rfl, hwr⟩
        · exact flag_kept hkept
        · exact flag_set hkept (hwrites hwr)
      · exact flag_cleared h0 (.inr (.inl (hclears hp)))
    · exact ⟨fun _ _ => hwrites hwr, fun _ _ => .inr (.inl (hclears hp))⟩

/-- Settles O49: `S` is kept but by its four writers, and BLOCK increments the counter words only. -/
theorem cipherStateWriters : Obligations.CipherStateWriters := by
  intro s t h
  cases stepEffect_of_step h with
  | reset hr bus ht =>
    exact ⟨fun _ => .inr (.inr (.inr hr)), fun hb => absurd hr (not_resets_of_completes hb), ht ▸ rfl⟩
  | access hk _ _ => exact ⟨fun h => absurd hk.S h, fun _ i _ _ => by rw [hk.S], hk.ROM⟩
  | completion u v hs hp hku hou _ hc hkt _ _ =>
    have hROM : t.ROM = s.ROM := hkt.ROM.trans (hc.rom_kept.trans hku.ROM)
    have hnot {i : Instr} (hi : i ≠ .block) (hd : decodeCmd u.PEND = .ok i) : ¬ s.Completes .block := fun hb => by
      rw [pend_of_completes hb hp, Except.ok.injEq] at hd
      exact hi hd.symm
    rcases hc.s_kept with hS | ⟨hd, h0⟩ | hd | ⟨hd, h0, hl, hS⟩
    · have hts : t.S = s.S := hkt.S.trans (hS.trans hku.S)
      exact ⟨fun h => absurd hts h, fun _ i _ _ => by rw [hts], hROM⟩
    · exact ⟨fun _ => .inl ⟨completes_of_pend hs hp hd, hkt.ERR.trans h0⟩,
        fun hb => absurd hb (hnot (by decide) hd), hROM⟩
    · exact ⟨fun _ => .inr (.inr (.inl (completes_of_pend hs hp hd))), fun hb => absurd hb (hnot (by decide) hd), hROM⟩
    · refine ⟨fun _ => .inr (.inl ⟨completes_of_pend hs hp hd, hkt.ERR.trans h0, hou.LEN ▸ hl⟩), fun _ i h8 h9 => ?_, hROM⟩
      rw [hkt.S, hS i h8 h9, hku.S]

/-- Settles O50: an access without an accepted write keeps the operands, and of the commands only QR, HASH and BLOCK write a
host register. -/
theorem hostRegisterWriters : Obligations.HostRegisterWriters := by
  intro s t h hnr hnc
  cases stepEffect_of_step h with
  | reset hr _ _ => exact absurd hr hnr
  | access _ hD ho =>
    refine ⟨fun hw => ?_, fun h => absurd hD h⟩
    obtain ⟨hKEY, hNONCE, hDIN, hQR, hKLEN, hNLEN, hLEN⟩ := ho hw
    exact ⟨hKEY, hNONCE, hDIN, hKLEN, hNLEN, hLEN, fun h => absurd hQR h⟩
  | completion u v hs hp _ hou hDu hc hkt hot hDt =>
    constructor
    · intro _
      rcases hc.operands_kept with ⟨q, hov, hq⟩ | hd
      · refine ⟨hot.KEY.trans (hov.KEY.trans hou.KEY), hot.NONCE.trans (hov.NONCE.trans hou.NONCE),
          hot.DIN.trans (hov.DIN.trans hou.DIN), hot.KLEN.trans (hov.KLEN.trans hou.KLEN),
          hot.NLEN.trans (hov.NLEN.trans hou.NLEN), hot.LEN.trans (hov.LEN.trans hou.LEN), fun h => ?_⟩
        have htq : t.QR = q := hot.QR.trans hov.QR
        exact completes_of_pend hs hp (hq (by rwa [htq, ← hou.QR] at h))
      · exact absurd (completes_of_pend hs hp hd) hnc
    · intro h
      rcases hc.dout_kept with hD | hd | ⟨hd, h0⟩
      · exact absurd (hDt.trans (hD.trans hDu)) h
      · exact absurd (completes_of_pend hs hp hd) hnc
      · exact ⟨hd.imp (completes_of_pend hs hp) (completes_of_pend hs hp), hkt.ERR.trans h0⟩

/-! ### What the host reads of the registers -/

/-- While BUSY = 0 a read gives the host the register (R53). -/
theorem exec_rd_idle (a : BitVec 7) {s : State} (hb : s.BUSY = false) :
    exec (.rd a) s = .next { s with reads := s.reads ++ [readReg (regOf a) s] } := by
  simp [exec, execRd, hb, observe]

/-- While BUSY = 1 a read is `busyReadReg` (R178). -/
theorem exec_rd_busy (a : BitVec 7) {s : State} (hb : s.BUSY = true) :
    exec (.rd a) s = .next (busyReadReg (regOf a) s) := by
  simp [exec, execRd, hb]

/-- While BUSY = 0 a write is `writeReg` (R54). -/
theorem exec_wr_idle (a : BitVec 7) (v : Word) {s : State} (hb : s.BUSY = false) :
    exec (.wr a v) s = .next (writeReg (regOf a) v s) := by
  simp [exec, execWr, hb]

/-- A write to any word but CMD leaves BUSY alone (R175). -/
theorem writeReg_BUSY {r : Reg} (hr : r ≠ .cmd) (v : Word) (s : State) : (writeReg r v s).BUSY = s.BUSY := by
  obtain ⟨_, _, _, _, _, _, _, _, _, _, h, hbusy, -⟩ := writeReg_frame r v s
  rw [h]
  exact (hbusy hr).2

/-- CTRL reads back in the bits of KLEN and NLEN (R33). -/
theorem ctrlWord_writeCtrl (v : Word) (s : State) : ctrlWord (writeCtrl v s) = v &&& 0x00000F3F := by
  ext i hi
  simp only [ctrlWord, writeCtrl]
  interval_cases i <;> simp

/-- DLEN reads back in the bits of LEN (R34). -/
theorem dlenWord_writeDlen (v : Word) (s : State) : dlenWord (writeDlen v s) = v &&& 0x0000007F := by
  ext i hi
  simp only [dlenWord, writeDlen]
  interval_cases i <;> simp

/-- The words of NONCE, QR and DIN (R50). -/
theorem regOf_data_words : ∀ a : BitVec 7,
    ((16 ≤ a.toNat ∧ a.toNat ≤ 17) ∨ (20 ≤ a.toNat ∧ a.toNat ≤ 23) ∨ (32 ≤ a.toNat ∧ a.toNat ≤ 47)) →
    (∃ i, regOf a = .nonce i) ∨ (∃ i, regOf a = .qr i) ∨ ∃ i, regOf a = .din i := by
  decide

/-- Settles O40: the write leaves the unit idle, and each of the five registers holds the bits its fields have. -/
theorem writtenWordReadsBackMasked : Obligations.WrittenWordReadsBackMasked := by
  intro s a v m hb ha
  have hones : v &&& 0xFFFFFFFF = v := BitVec.and_allOnes
  have hread : regOf a ≠ .cmd ∧ readReg (regOf a) (writeReg (regOf a) v s) = v &&& m := by
    rcases ha with ⟨rfl, rfl⟩ | ⟨rfl, rfl⟩ | ⟨ha, rfl⟩
    · exact ⟨by decide, ctrlWord_writeCtrl v s⟩
    · exact ⟨by decide, dlenWord_writeDlen v s⟩
    · rw [hones]
      rcases regOf_data_words a ha with ⟨i, hi⟩ | ⟨i, hi⟩ | ⟨i, hi⟩ <;> simp [hi, readReg, writeReg]
  obtain ⟨hcmd, hread⟩ := hread
  refine ⟨writeReg (regOf a) v s, exec_wr_idle a v hb, ?_⟩
  rw [exec_rd_idle a ((writeReg_BUSY hcmd v s).trans hb), hread]

/-- Settles O11: the arrays are zero by definition, and the three words compute. -/
theorem resetStateHoldsTheResetValues : Obligations.ResetStateHoldsTheResetValues := by
  refine ⟨rfl, rfl, rfl, rfl, rfl, rfl, ?_, ?_, ?_⟩ <;> decide

/-- A flag's word has the flag in bit 0. -/
@[simp] theorem bit_getElem (b : Bool) (i : Nat) (hi : i < 32) : (bit b)[i] = (decide (i = 0) && b) := by
  cases b <;> simp [bit, BitVec.getElem_one]

/-- Settles O35: bit by bit. -/
theorem statusWordLayout : Obligations.StatusWordLayout := by
  intro s
  refine ⟨by simp [statusWord], by simp [statusWord], by simp [statusWord], by simp [statusWord],
    by simp [statusWord], ?_, ?_, ?_⟩
  · ext i hi
    interval_cases i <;> simp [statusWord]
  · ext i hi
    interval_cases i <;> simp [statusWord]
  · ext i hi
    interval_cases i <;> simp [statusWord]

/-- No read looks at KEY (R28). -/
theorem readReg_with_KEY (r : Reg) (k : Words 8) (s : State) : readReg r { s with KEY := k } = readReg r s := by
  cases r <;> rfl

theorem busyReadReg_with_KEY (r : Reg) (k : Words 8) (s : State) :
    busyReadReg r { s with KEY := k } = { busyReadReg r s with KEY := k } := by
  cases r <;> rfl

/-- Settles O41: no read looks at KEY, while BUSY = 0 and while BUSY = 1. -/
theorem keyRegistersCannotBeRead : Obligations.KeyRegistersCannotBeRead := by
  intro s k a
  constructor
  · intro hb
    refine ⟨readReg (regOf a) s, exec_rd_idle a hb, ?_⟩
    rw [exec_rd_idle a (s := { s with KEY := k }) hb, readReg_with_KEY]
  · intro hb
    obtain ⟨v, n, h⟩ := busyReadReg_frame (regOf a) s
    refine ⟨v, n, ?_, ?_⟩
    · rw [exec_rd_busy a hb, h]
    · rw [exec_rd_busy a (s := { s with KEY := k }) hb, busyReadReg_with_KEY, h]

end Sys2Proof.Machine
end

section
/-! SUPPORT. The statements of the memory map (20_memory.md): the word index of every register (R50), what reads and writes
do while BUSY = 0 (R53, R54, R59), that transactions always complete (R51), and what is held while BUSY = 1 (R67). -/

namespace Sys2Proof.Machine

/-! ### The word indices (20_memory.md R50) -/

@[simp] theorem waddr_key_toNat (i : Fin 8) : (waddr (.key i)).toNat = 8 + i.val :=
  Nat.mod_eq_of_lt (by omega)

@[simp] theorem waddr_nonce_toNat (i : Fin 2) : (waddr (.nonce i)).toNat = 16 + i.val :=
  Nat.mod_eq_of_lt (by omega)

@[simp] theorem waddr_qr_toNat (i : Fin 4) : (waddr (.qr i)).toNat = 20 + i.val :=
  Nat.mod_eq_of_lt (by omega)

@[simp] theorem waddr_din_toNat (i : Fin 16) : (waddr (.din i)).toNat = 32 + i.val :=
  Nat.mod_eq_of_lt (by omega)

@[simp] theorem waddr_dout_toNat (i : Fin 16) : (waddr (.dout i)).toNat = 48 + i.val :=
  Nat.mod_eq_of_lt (by omega)

@[simp] theorem waddr_state_toNat (i : Fin 16) : (waddr (.state i)).toNat = 64 + i.val :=
  Nat.mod_eq_of_lt (by omega)

/-- A word index with the number of a register names that register. -/
theorem regOf_of_toNat {a : BitVec 7} {r : Reg} {n : Nat} (ha : a.toNat = n) (hr : (waddr r).toNat = n) :
    regOf a = r := by
  rw [BitVec.eq_of_toNat_eq (ha.trans hr.symm), regOf_waddr]

/-- The reserved words (R60). -/
theorem regOf_reserved_words : ∀ a : BitVec 7,
    (a = 6 ∨ a = 7 ∨ a = 18 ∨ a = 19 ∨ (24 ≤ a.toNat ∧ a.toNat ≤ 31) ∨ 80 ≤ a.toNat) → regOf a = .reserved := by
  decide

/-! ### Writes while BUSY = 0 (20_memory.md R54, R59) -/

/-- Whether a write to the register can have an effect: it is neither read-only nor reserved (R45, R54). -/
def Reg.writable : Reg → Bool
  | .ctrl | .cmd | .status | .dlen | .key _ | .nonce _ | .qr _ | .din _ => true
  | .ctrLo | .ctrHi | .dout _ | .state _ | .reserved => false

/-- A write to a read-only or reserved word does nothing (R54). -/
theorem writeReg_of_not_writable {r : Reg} (hr : r.writable = false) (v : Word) (s : State) : writeReg r v s = s := by
  cases r with
  | ctrLo | ctrHi | dout _ | state _ | reserved => rfl
  | ctrl | cmd | status | dlen | key _ | nonce _ | qr _ | din _ => cases hr

/-- The read-only and the reserved words (R50). -/
theorem regOf_not_writable_words : ∀ a : BitVec 7,
    ((4 ≤ a.toNat ∧ a.toNat ≤ 7) ∨ a = 18 ∨ a = 19 ∨ (24 ≤ a.toNat ∧ a.toNat ≤ 31) ∨ 48 ≤ a.toNat) →
    (regOf a).writable = false := by
  decide

/-- A write to STATUS keeps WERR unless bit 3 is 1 (R35). -/
theorem writeStatus_eq (v : Word) (s : State) : writeStatus v s = { s with WERR := s.WERR && !v.getLsbD 3 } := by
  rw [writeStatus]
  cases v.getLsbD 3 <;> simp

/-- A write to any register but CMD, made twice, is the write made once (R59). -/
theorem writeReg_writeReg {r : Reg} (hr : r ≠ .cmd) (v : Word) (s : State) :
    writeReg r v (writeReg r v s) = writeReg r v s := by
  cases r with
  | cmd => exact absurd rfl hr
  | status => simp [writeReg, writeStatus_eq]
  | key _ | nonce _ | qr _ | din _ => simp [writeReg]
  | _ => rfl

/-! ### Transactions while BUSY = 1 (60_exceptions.md R177, R178) -/

/-- An edge without reset and completion while BUSY = 1 changes only WERR, what the host has read and the count of
draws. -/
theorem clockEdge_busy_holds {e : Edge} {s : State} (hr : e.rstN = true) (hd : e.done = false) (hb : s.BUSY = true) :
    ∃ w rs n, clockEdge e s = .next { s with WERR := w, reads := rs, draws := n } := by
  obtain ⟨t, ht⟩ := clockEdge_next e s
  rw [ht]
  rcases clockEdge_cases ht with ⟨hr', -⟩ | ⟨-, -, -, rfl⟩ | ⟨-, -, hd', -⟩ | ⟨-, -, x, -, hx⟩ | ⟨-, hd', -⟩
  · simp [hr] at hr'
  · exact ⟨t.WERR, t.reads, t.draws, rfl⟩
  · simp [hd] at hd'
  · rcases exec_bus_busy hb hx with ⟨_, _, -, rfl⟩ | ⟨_, -, v, n, rfl⟩
    · exact ⟨true, s.reads, s.draws, rfl⟩
    · exact ⟨s.WERR, s.reads ++ [v], n, rfl⟩
  · simp [hd] at hd'

/-- Any number of edges without reset and completion while BUSY = 1 changes no more than one, since BUSY stays 1. -/
theorem runEdges_busy_holds {es : List Edge} {s : State} (he : ∀ e ∈ es, e.rstN = true ∧ e.done = false)
    (hb : s.BUSY = true) :
    ∃ w rs n, runEdges es s = .next { s with WERR := w, reads := rs, draws := n } := by
  induction es generalizing s with
  | nil => exact ⟨s.WERR, s.reads, s.draws, rfl⟩
  | cons e es ih =>
    rw [List.forall_mem_cons] at he
    obtain ⟨⟨hr, hd⟩, hes⟩ := he
    obtain ⟨w, rs, n, hedge⟩ := clockEdge_busy_holds hr hd hb
    rw [runEdges_cons_next hedge]
    exact ih (s := { s with WERR := w, reads := rs, draws := n }) hes hb

/-! ### The statements -/

/-- Settles O12: every clock edge gives a next state, and the two other events are the stops. -/
theorem onlyForeignEventsStopTheUnit : Obligations.OnlyForeignEventsStopTheUnit := by
  intro s
  cases hin : s.inputs with
  | nil => exact .inl (by rw [step_of_no_input hin]; exact clockEdge_next _ _)
  | cons ev rest =>
    cases ev with
    | edge e => exact .inl (by rw [step_of_edge hin]; exact clockEdge_next _ _)
    | secondMaster x => exact .inr (.inl ⟨x, rest, rfl, by simp [step, nextEvent, handleEvent, hin]⟩)
    | powerLoss => exact .inr (.inr ⟨rest, rfl, by simp [step, nextEvent, handleEvent, hin]⟩)

/-- Settles O34: the read gives the host `readReg` of the register the map names. -/
theorem idleReadReturnsTheRegister : Obligations.IdleReadReturnsTheRegister := by
  intro s a hb
  refine ⟨readReg (regOf a) s, exec_rd_idle a hb, ?_, ?_, ?_, ?_, ?_, ?_, fun i ha => ?_, fun i ha => ?_, fun i ha => ?_,
    fun i ha => ?_, fun i ha => ?_, fun i ha => ?_, fun ha => ?_⟩
  iterate 6 (rintro rfl; rfl)
  · rw [regOf_of_toNat ha (waddr_key_toNat i)]; rfl
  · rw [regOf_of_toNat ha (waddr_nonce_toNat i)]; rfl
  · rw [regOf_of_toNat ha (waddr_qr_toNat i)]; rfl
  · rw [regOf_of_toNat ha (waddr_din_toNat i)]; rfl
  · rw [regOf_of_toNat ha (waddr_dout_toNat i)]; rfl
  · rw [regOf_of_toNat ha (waddr_state_toNat i)]; rfl
  · rw [regOf_reserved_words a ha]; rfl

/-- Settles O36: the write is `writeReg` on the register the map names. -/
theorem idleWriteSetsTheRegister : Obligations.IdleWriteSetsTheRegister := by
  intro s a v hb
  rw [exec_wr_idle a v hb]
  refine ⟨?_, ?_, ?_, ?_, fun i ha => ?_, fun i ha => ?_, fun i ha => ?_, fun i ha => ?_, fun ha => ?_⟩
  · rintro rfl; rfl
  · rintro rfl; rfl
  · rintro rfl; exact congrArg _ (writeStatus_eq v s)
  · rintro rfl; rfl
  · rw [regOf_of_toNat ha (waddr_key_toNat i)]; rfl
  · rw [regOf_of_toNat ha (waddr_nonce_toNat i)]; rfl
  · rw [regOf_of_toNat ha (waddr_qr_toNat i)]; rfl
  · rw [regOf_of_toNat ha (waddr_din_toNat i)]; rfl
  · rw [writeReg_of_not_writable (regOf_not_writable_words a ha)]

/-- Settles O42: a write to a word but CMD leaves the unit idle, and its repetition is `writeReg` twice. -/
theorem repeatedWriteIsIdempotent : Obligations.RepeatedWriteIsIdempotent := by
  intro s a v hb ha
  have hcmd : regOf a ≠ .cmd := fun h => ha ((regOf_eq_cmd a).1 h)
  refine ⟨writeReg (regOf a) v s, exec_wr_idle a v hb, ?_⟩
  rw [exec_wr_idle a v ((writeReg_BUSY hcmd v s).trans hb), writeReg_writeReg hcmd]

/-- Settles O51: the CMD write is `startCommand`, and the edges after it hold what it left. -/
theorem commandInputsAreHeldWhileBusy : Obligations.CommandInputsAreHeldWhileBusy := by
  intro s v es hb hes
  have hissue : clockEdge (busEdge (.wr 1 v)) s = .next (startCommand v s) := clockEdge_hostWr .cmd v hb
  obtain ⟨w, rs, n, hrun⟩ := runEdges_busy_holds hes (startCommand_BUSY v s)
  exact ⟨_, by rw [runEdges_cons_next hissue, hrun], rfl⟩

end Sys2Proof.Machine
end

section
/-! SUPPORT. The statements of the encoding (30_encoding.md): the opcode map (R74, R75), the bus header (R71), the byte
streams of the two formats (R77), and an illegal word's acceptance and completion (R75). -/

namespace Sys2Proof.Machine

/-! ### Command words (30_encoding.md R74, R75) -/

/-- RSV is not 0 or OP is 6 or more exactly when the word, as a number, is 6 or more. -/
theorem illegal_fields_iff (v : Word) :
    v.extractLsb' 4 28 ≠ 0 ∨ 6 ≤ (v.extractLsb' 0 4).toNat ↔ 6 ≤ v.toNat := by
  have hrsv : (v.extractLsb' 4 28).toNat = v.toNat / 16 := by
    have := v.isLt
    simp only [BitVec.extractLsb'_toNat, Nat.shiftRight_eq_div_pow]
    omega
  have hop : (v.extractLsb' 0 4).toNat = v.toNat % 16 := by simp [BitVec.extractLsb'_toNat]
  rw [ne_eq, ← BitVec.toNat_inj, hrsv, hop, show (0 : BitVec 28).toNat = 0 from rfl]
  omega

/-- A word is illegal exactly when it is 6 or more. -/
theorem decodeCmd_eq_illegal_iff (v : Word) : decodeCmd v = .error (.illegalCommand v) ↔ 6 ≤ v.toNat := by
  obtain ⟨rfl, e⟩ | ⟨rfl, e⟩ | ⟨rfl, e⟩ | ⟨rfl, e⟩ | ⟨rfl, e⟩ | ⟨rfl, e⟩ | ⟨hv, e⟩ := decodeCmd_cases v
  case inr.inr.inr.inr.inr.inr => exact iff_of_true e hv
  all_goals exact iff_of_false (by rw [e]; exact nofun) (by decide)

/-- The commands and their words (R74). -/
def opcodeMap : List (Instr × Word) :=
  [(.nop, 0x0), (.init, 0x1), (.block, 0x2), (.hash, 0x3), (.qr, 0x4), (.clear, 0x5)]

theorem decodeCmd_of_mem_opcodeMap : ∀ p ∈ opcodeMap, decodeCmd p.2 = .ok p.1 := by decide

theorem encode_of_mem_opcodeMap : ∀ p ∈ opcodeMap, p.1.format = .cmd32 ∧ encode p.1 = wordBytes p.2 := by decide

/-- A word selects a command exactly when it equals the listed word (R74). -/
theorem decodeCmd_eq_ok_iff (v : Word) (i : Instr) : decodeCmd v = .ok i ↔ (i, v) ∈ opcodeMap := by
  refine ⟨fun h => ?_, decodeCmd_of_mem_opcodeMap (i, v)⟩
  obtain ⟨rfl, e⟩ | ⟨rfl, e⟩ | ⟨rfl, e⟩ | ⟨rfl, e⟩ | ⟨rfl, e⟩ | ⟨rfl, e⟩ | ⟨-, e⟩ := decodeCmd_cases v
  case inr.inr.inr.inr.inr.inr => exact absurd (e.symm.trans h) nofun
  all_goals
    obtain rfl := Except.ok.inj (e.symm.trans h)
    decide

/-- Settles O3: the listed words are 0 to 5, and the illegal ones are 6 and above. -/
theorem commandWordsAreTheOpcodeMap : Obligations.CommandWordsAreTheOpcodeMap := fun v =>
  ⟨decodeCmd_eq_ok_iff v, (decodeCmd_eq_illegal_iff v).trans (illegal_fields_iff v).symm⟩

/-! ### Bus headers (30_encoding.md R71) -/

/-- A header is made of its two fields. -/
theorem busHeader_fields (h : Byte) : busHeader (h.extractLsb' 7 1) (h.extractLsb' 0 7) = h := by
  revert h
  decide

/-- Every header is that of a read or that of a write (R76). -/
theorem busHeader_cases (h : Byte) : (∃ a, h = busHeader 0#1 a) ∨ ∃ a, h = busHeader 1#1 a := by
  rcases BitVec.eq_zero_or_eq_one (h.extractLsb' 7 1) with hwe | hwe
  · exact .inl ⟨h.extractLsb' 0 7, by rw [← hwe, busHeader_fields]⟩
  · exact .inr ⟨h.extractLsb' 0 7, by rw [← hwe, busHeader_fields]⟩

/-- Bit 7 of a header is WE. -/
theorem busHeader_getLsbD_seven (we : BitVec 1) (a : BitVec 7) : (busHeader we a).getLsbD 7 = we.getLsbD 0 := by
  revert we a
  decide

/-- Bits 6:0 of a header are WADDR. -/
theorem busHeader_toNat_mod (we : BitVec 1) (a : BitVec 7) : BitVec.ofNat 7 ((busHeader we a).toNat % 128) = a := by
  revert we a
  decide

/-- Settles O4: a header is that of a read or that of a write, and bit 7 tells which. -/
theorem everyBusHeaderDecodes : Obligations.EveryBusHeaderDecodes := by
  intro h d
  obtain ⟨a, rfl⟩ | ⟨a, rfl⟩ := busHeader_cases h
  · rw [busHeader_getLsbD_seven, busHeader_toNat_mod, decodeBus_read]
    exact ⟨nofun, fun _ => rfl⟩
  · rw [busHeader_getLsbD_seven, busHeader_toNat_mod, decodeBus_write]
    exact ⟨fun _ => rfl, nofun⟩

/-! ### Byte streams (30_encoding.md R77; log 15) -/

/-- Any four bytes are those of a word. -/
@[simp] theorem wordBytes_le32 (b0 b1 b2 b3 : Byte) : wordBytes (le32 b0 b1 b2 b3) = [b0, b1, b2, b3] := by
  simp [wordBytes]

/-- A byte stream begins with a word, or it has fewer than four bytes. -/
theorem wordBytes_append_or_short (l : List Byte) : (∃ w rest, l = wordBytes w ++ rest) ∨ l.length < 4 := by
  match l with
  | b0 :: b1 :: b2 :: b3 :: rest => exact .inl ⟨le32 b0 b1 b2 b3, rest, by simp⟩
  | [] | [_] | [_, _] | [_, _, _] => exact .inr (by simp)

/-- A stream that begins with a command word decodes as the word does. -/
theorem decode_cmd32_wordBytes (w : Word) (rest : List Byte) :
    decode .cmd32 (wordBytes w ++ rest) = (decodeCmd w).map (·, rest) := by
  simp only [wordBytes, List.cons_append, List.nil_append, decode, le32_byteOf]
  cases decodeCmd w <;> rfl

/-- Fewer than four bytes hold no command word. -/
theorem decode_cmd32_of_short {l : List Byte} (h : l.length < 4) : decode .cmd32 l = .error (.truncated .cmd32) := by
  match l with
  | [] | [_] | [_, _] | [_, _, _] => rfl
  | _ :: _ :: _ :: _ :: _ => simp at h; omega

/-- A read has no bytes but its header. -/
theorem decode_bus_read (a : BitVec 7) (rest : List Byte) :
    decode .bus (busHeader 0#1 a :: rest) = .ok (.rd a, rest) := by
  simp [decode]

/-- A write's header is followed by its data. -/
theorem decode_bus_write (a : BitVec 7) (d : Word) (rest : List Byte) :
    decode .bus (busHeader 1#1 a :: (wordBytes d ++ rest)) = .ok (.wr a d, rest) := by
  simp [decode, wordBytes]

/-- Fewer than four bytes after a write's header hold no data. -/
theorem decode_bus_write_of_short (a : BitVec 7) {l : List Byte} (h : l.length < 4) :
    decode .bus (busHeader 1#1 a :: l) = .error (.truncated .bus) := by
  match l with
  | [] | [_] | [_, _] | [_, _, _] => simp [decode]
  | _ :: _ :: _ :: _ :: _ => simp at h; omega

/-- Settles O1: a command's bytes are those of its listed word, and a transaction's header says whether data follow. -/
theorem decodeOfEncodeReturnsInstruction : Obligations.DecodeOfEncodeReturnsInstruction := by
  intro i rest
  have hcmd (w : Word) (hw : (i, w) ∈ opcodeMap) : decode i.format (encode i ++ rest) = .ok (i, rest) := by
    obtain ⟨hf, he⟩ := encode_of_mem_opcodeMap _ hw
    rw [hf, he, decode_cmd32_wordBytes, decodeCmd_of_mem_opcodeMap _ hw]
    rfl
  cases i with
  | nop => exact hcmd 0 (by decide)
  | init => exact hcmd 1 (by decide)
  | block => exact hcmd 2 (by decide)
  | hash => exact hcmd 3 (by decide)
  | qr => exact hcmd 4 (by decide)
  | clear => exact hcmd 5 (by decide)
  | rd a => exact decode_bus_read a rest
  | wr a d => exact decode_bus_write a d rest

/-- Command bytes that decode are the encoding of their instruction. -/
theorem encode_of_decode_cmd32 {bytes rest : List Byte} {i : Instr} (h : decode .cmd32 bytes = .ok (i, rest)) :
    i.format = .cmd32 ∧ bytes = encode i ++ rest := by
  obtain ⟨w, rest', rfl⟩ | hshort := wordBytes_append_or_short bytes
  · rw [decode_cmd32_wordBytes] at h
    cases hw : decodeCmd w with
    | error e => exact absurd (hw ▸ h) nofun
    | ok j =>
      obtain ⟨rfl, rfl⟩ : j = i ∧ rest' = rest := by simpa [hw, Except.map] using h
      obtain ⟨hf, he⟩ := encode_of_mem_opcodeMap (j, w) ((decodeCmd_eq_ok_iff w j).1 hw)
      exact ⟨hf, by rw [he]⟩
  · exact absurd (decode_cmd32_of_short hshort ▸ h) nofun

/-- Bus bytes that decode are the encoding of their instruction. -/
theorem encode_of_decode_bus {bytes rest : List Byte} {i : Instr} (h : decode .bus bytes = .ok (i, rest)) :
    i.format = .bus ∧ bytes = encode i ++ rest := by
  cases bytes with
  | nil => exact absurd h nofun
  | cons b l =>
    obtain ⟨a, rfl⟩ | ⟨a, rfl⟩ := busHeader_cases b
    · obtain ⟨rfl, rfl⟩ : .rd a = i ∧ l = rest := by
        simpa only [decode_bus_read, Except.ok.injEq, Prod.mk.injEq] using h
      exact ⟨rfl, rfl⟩
    · obtain ⟨d, rest', rfl⟩ | hshort := wordBytes_append_or_short l
      · obtain ⟨rfl, rfl⟩ : .wr a d = i ∧ rest' = rest := by
          simpa only [decode_bus_write, Except.ok.injEq, Prod.mk.injEq] using h
        exact ⟨rfl, rfl⟩
      · exact absurd (decode_bus_write_of_short a hshort ▸ h) nofun

/-- Settles O2: in each format, a stream that decodes begins with a whole encoding. -/
theorem decodedBytesAreTheEncoding : Obligations.DecodedBytesAreTheEncoding := by
  intro f bytes i rest h
  cases f with
  | cmd32 => exact (encode_of_decode_cmd32 h).imp_left Eq.symm
  | bus => exact (encode_of_decode_bus h).imp_left Eq.symm

/-- Settles O5: ten fixed words, by computation. -/
theorem listedWordsDecode : Obligations.ListedWordsDecode := by
  unfold Obligations.ListedWordsDecode
  decide

/-! ### Illegal words (30_encoding.md R75) -/

/-- The completion of a word that is no command reports code 6 and does nothing else. -/
theorem completeStep_of_error {s : State} {e : DecodeError} (h : decodeCmd s.PEND = .error e) :
    completeStep s = .next { s with ERR := 6, BUSY := false } := by
  rw [completeStep, h]
  rfl

/-- A word below 6 decodes to one of the six commands. -/
theorem exists_command_of_lt {v : Word} (hv : v.toNat < 6) :
    ∃ i ∈ [Instr.nop, .init, .block, .hash, .qr, .clear], decodeCmd v = .ok i := by
  obtain ⟨-, e⟩ | ⟨-, e⟩ | ⟨-, e⟩ | ⟨-, e⟩ | ⟨-, e⟩ | ⟨-, e⟩ | ⟨h6, -⟩ := decodeCmd_cases v
  case inr.inr.inr.inr.inr.inr => omega
  all_goals exact ⟨_, by decide, e⟩

/-- Settles O8: the write to CMD does not look at the word, which decodes exactly when it is below 6. -/
theorem illegalWordCompletesWithCodeSix : Obligations.IllegalWordCompletesWithCodeSix := by
  intro s v
  refine ⟨fun hill => ⟨exec_wr_idle 1 v, fun _ hp => ?_⟩, fun hrsv hop => ?_⟩
  · have he := (decodeCmd_eq_illegal_iff v).2 ((illegal_fields_iff v).1 hill)
    exact completeStep_of_error (hp ▸ he)
  · refine exists_command_of_lt (not_le.1 fun h => ?_)
    obtain h | h := (illegal_fields_iff v).2 h
    · exact h hrsv
    · exact not_le_of_gt hop h

end Sys2Proof.Machine
end

section
/-! SUPPORT. The statements of the state builder (40_state_builder.md): INIT on legal and illegal lengths (R102, R103), CLEAR
(R105) and NOP (R106). -/

namespace Sys2Proof.Machine

/-! ### INIT, by its lengths (40_state_builder.md R103; 60_exceptions.md R179) -/

/-- INIT with legal lengths builds the state. -/
theorem exec_init_legal {s : State} (hk : s.KLEN = 16#6 ∨ s.KLEN = 32#6) (hn : s.NLEN = 8#4) :
    exec .init s = .next (finish 0 { s with
      S := initialLayout (selectConstants s.KLEN s.ROM) s.KEY (secondQuadrant s.KLEN s.KEY) s.NONCE
      VALID := true, EXH := false, KSEL := decide (s.KLEN = 16#6) }) := by
  have hlegal : ¬ (s.KLEN ≠ 16#6 ∧ s.KLEN ≠ 32#6) := by tauto
  rw [exec, execInit, if_neg hlegal, if_neg (not_not_intro hn), complete_eq]

/-- INIT with an illegal key length reports code 1, whatever the nonce length. -/
theorem exec_init_badKeyLength {s : State} (h16 : s.KLEN ≠ 16#6) (h32 : s.KLEN ≠ 32#6) :
    exec .init s = .next (finish 1 s) := by
  rw [exec, execInit, if_pos ⟨h16, h32⟩, raiseError_eq, ErrorCode.code]

/-- INIT with a legal key length and an illegal nonce length reports code 2. -/
theorem exec_init_badNonceLength {s : State} (hk : s.KLEN = 16#6 ∨ s.KLEN = 32#6) (hn : s.NLEN ≠ 8#4) :
    exec .init s = .next (finish 2 s) := by
  have hlegal : ¬ (s.KLEN ≠ 16#6 ∧ s.KLEN ≠ 32#6) := by tauto
  rw [exec, execInit, if_neg hlegal, if_pos hn, raiseError_eq, ErrorCode.code]

/-! ### The key quadrants (40_state_builder.md R102) -/

/-- Both key quadrants of a 16-byte key are `KEY[0..3]`, so the layout is the same for keys that agree there. -/
theorem initialLayout_shortKey_congr {k k' : Words 8} (h0 : k[0] = k'[0]) (h1 : k[1] = k'[1]) (h2 : k[2] = k'[2])
    (h3 : k[3] = k'[3]) (con : Words 4) (nonce : Words 2) :
    initialLayout con k (secondQuadrant 16#6 k) nonce = initialLayout con k' (secondQuadrant 16#6 k') nonce := by
  simp [initialLayout, secondQuadrant, h0, h1, h2, h3]

/-! ### WERR and the errors of an unbuilt state (10_state.md R38; 60_exceptions.md R179) -/

/-- HASH and BLOCK report code 3 while VALID = 0. -/
theorem exec_hash_block_notInitialised {s : State} (hv : s.VALID = false) :
    exec .hash s = .next (finish 3 s) ∧ exec .block s = .next (finish 3 s) :=
  ⟨if_pos hv, if_pos hv⟩

/-- No command but CLEAR writes WERR. -/
theorem exec_command_WERR {i : Instr} (hi : i ∈ [Instr.nop, .init, .block, .hash, .qr]) {s t : State}
    (h : exec i s = .next t) : t.WERR = s.WERR := by
  simp only [List.mem_cons, List.not_mem_nil, or_false] at hi
  rcases hi with rfl | rfl | rfl | rfl | rfl
  · cases h; rfl
  · obtain ⟨-, -, rfl⟩ | ⟨-, -, rfl⟩ | ⟨-, -, rfl⟩ := exec_init_cases h <;> rfl
  · obtain ⟨-, rfl⟩ | ⟨-, -, rfl⟩ | ⟨-, -, -, rfl⟩ | ⟨-, -, -, rfl⟩ | ⟨-, -, -, -, x, r, rfl⟩ := exec_block_cases h <;>
      rfl
  · obtain ⟨-, rfl⟩ | ⟨-, -, rfl⟩ | ⟨-, -, x, r, rfl⟩ := exec_hash_cases h <;> rfl
  · obtain ⟨q, rfl⟩ := exec_qr_eq h
    rfl

/-! ### The statements -/

/-- Settles O13: NOP is `finish 0`, and the write to CMD is `startCommand`. -/
theorem nopWritesOnlyTheResultCode : Obligations.NopWritesOnlyTheResultCode :=
  ⟨decodeCmd_of_mem_opcodeMap (.nop, 0) (by decide), fun _ => rfl, fun _ hb => exec_wr_idle 1 0 hb⟩

/-- Settles O14: the layout is computed for each of the two key lengths, and the errors are `finish`. -/
theorem initBuildsTheState : Obligations.InitBuildsTheState := by
  refine ⟨decodeCmd_of_mem_opcodeMap (.init, 1) (by decide), fun s => ⟨fun hk hn => ?_, fun hk hn => ?_,
    exec_init_badKeyLength, exec_init_badNonceLength⟩⟩
  · rw [exec_init_legal (.inr hk) hn]
    simp [finish, initialLayout, selectConstants, secondQuadrant, hk]
  · rw [exec_init_legal (.inl hk) hn]
    simp [finish, initialLayout, selectConstants, secondQuadrant, hk]

/-- Settles O15: with a legal nonce length the two layouts agree, with another INIT does not look at KEY at all. -/
theorem shortKeyInitIgnoresTheUpperKeyWords : Obligations.ShortKeyInitIgnoresTheUpperKeyWords := by
  intro s k hk h0 h1 h2 h3
  by_cases hn : s.NLEN = 8#4
  · refine ⟨_, exec_init_legal (.inl hk) hn, ?_⟩
    rw [exec_init_legal (s := { s with KEY := k }) (.inl hk) hn, hk, initialLayout_shortKey_congr h0 h1 h2 h3]
    rfl
  · exact ⟨_, exec_init_badNonceLength (.inl hk) hn,
      exec_init_badNonceLength (s := { s with KEY := k }) (.inl hk) hn⟩

/-- Settles O17: CLEAR leaves VALID = 0, where HASH and BLOCK report code 3, and it alone writes WERR. -/
theorem clearZeroesKeyMaterialAndFlags : Obligations.ClearZeroesKeyMaterialAndFlags :=
  ⟨decodeCmd_of_mem_opcodeMap (.clear, 5) (by decide),
    fun _ => ⟨_, rfl, rfl, exec_hash_block_notInitialised rfl⟩,
    fun _ hi _ _ => exec_command_WERR hi⟩

end Sys2Proof.Machine
end

section
/-! SUPPORT. The statements of the core transform (41_core_transform.md): the quarter-round and its inverse (R122), the
rounds as quarter-rounds on groups of positions (R125 to R127), the sequencer (R131), and the commands QR (R135) and HASH
(R136). -/

namespace Sys2Proof.Machine

/-! ### The four updates of the quarter-round (41_core_transform.md R121, R122) -/

/-- The update of `b`. -/
def updateB (q : Quad) : Quad := { q with b := q.b ^^^ rotl (q.a + q.d) 7 }

/-- The update of `c`. -/
def updateC (q : Quad) : Quad := { q with c := q.c ^^^ rotl (q.b + q.a) 9 }

/-- The update of `d`. -/
def updateD (q : Quad) : Quad := { q with d := q.d ^^^ rotl (q.c + q.b) 13 }

/-- The update of `a`. -/
def updateA (q : Quad) : Quad := { q with a := q.a ^^^ rotl (q.d + q.c) 18 }

/-- Each update XORs a value of the other three words into one word, so it undoes itself. -/
@[simp] theorem updateB_updateB (q : Quad) : updateB (updateB q) = q := by simp [updateB]
@[simp] theorem updateC_updateC (q : Quad) : updateC (updateC q) = q := by simp [updateC]
@[simp] theorem updateD_updateD (q : Quad) : updateD (updateD q) = q := by simp [updateD]
@[simp] theorem updateA_updateA (q : Quad) : updateA (updateA q) = q := by simp [updateA]

/-- The quarter-round is its four updates one after another (R121). -/
theorem quarterround_eq_updates (q : Quad) : quarterround q = updateA (updateD (updateC (updateB q))) := rfl

/-- The updates in reverse order (R122). -/
def quarterroundInverse (q : Quad) : Quad := updateB (updateC (updateD (updateA q)))

@[simp] theorem quarterroundInverse_quarterround (q : Quad) : quarterroundInverse (quarterround q) = q := by
  simp [quarterroundInverse, quarterround_eq_updates]

@[simp] theorem quarterround_quarterroundInverse (q : Quad) : quarterround (quarterroundInverse q) = q := by
  simp [quarterroundInverse, quarterround_eq_updates]

theorem quarterround_injective : Function.Injective quarterround :=
  Function.LeftInverse.injective quarterroundInverse_quarterround

/-- Settles O19: `undo` is the four updates in reverse order, and the parallel form differs at (1, 0, 0, 0). -/
theorem quarterroundIsUndoneInReverse : Obligations.QuarterroundIsUndoneInReverse := by
  refine ⟨by decide, by decide, quarterroundInverse_quarterround, quarterround_quarterroundInverse, fun h => ?_⟩
  exact absurd (congrFun h { a := 1, b := 0, c := 0, d := 0 }) (by decide)

/-! ### A round is the quarter-round on each of its groups (41_core_transform.md R123 to R125) -/

/-- The positions of a group. -/
def PosGroup.positions (g : PosGroup) : List (Fin 16) := [g.i, g.j, g.k, g.l]

/-- The words of a state at the positions of a group. -/
def readGroup (x : Words 16) (g : PosGroup) : Quad := { a := x[g.i], b := x[g.j], c := x[g.k], d := x[g.l] }

/-- The positions of the groups are the 16 positions once each. -/
def Covers (gs : List PosGroup) : Prop := (gs.flatMap PosGroup.positions).Perm (List.finRange 16)

/-- `f` is the quarter-round on each of the groups. -/
def QuarterroundsOn (gs : List PosGroup) (f : Words 16 → Words 16) : Prop :=
  ∀ x, ∀ g ∈ gs, readGroup (f x) g = quarterround (readGroup x g)

/-- Two states with the same words at the positions of a group, as operands and one by one. -/
theorem readGroup_eq_iff {x y : Words 16} {g : PosGroup} :
    readGroup x g = readGroup y g ↔ ∀ p ∈ g.positions, x[p] = y[p] := by
  simp [readGroup, PosGroup.positions]

/-- A state is determined by its words on groups that cover the positions. -/
theorem eq_of_readGroup_eq {gs : List PosGroup} (hgs : Covers gs) {x y : Words 16}
    (h : ∀ g ∈ gs, readGroup x g = readGroup y g) : x = y := by
  refine Vector.ext fun p hp => ?_
  have hmem : (⟨p, hp⟩ : Fin 16) ∈ gs.flatMap PosGroup.positions := hgs.mem_iff.2 (List.mem_finRange _)
  obtain ⟨g, hg, hpg⟩ := List.mem_flatMap.1 hmem
  exact readGroup_eq_iff.1 (h g hg) ⟨p, hp⟩ hpg

/-- The quarter-round on a group keeps the words at the other positions. -/
theorem applyGroup_getElem_of_notMem (x : Words 16) {g : PosGroup} {p : Fin 16} (hp : p ∉ g.positions) :
    (applyGroup x g)[p] = x[p] := by
  simp only [PosGroup.positions, List.mem_cons, List.not_mem_nil, or_false, not_or, Fin.ext_iff] at hp
  obtain ⟨hi, hj, hk, hl⟩ := hp
  simp [applyGroup, Ne.symm hi, Ne.symm hj, Ne.symm hk, Ne.symm hl]

/-- The quarter-round on a group of four different positions puts its result there. -/
theorem readGroup_applyGroup_same (x : Words 16) {g : PosGroup} (hg : g.positions.Nodup) :
    readGroup (applyGroup x g) g = quarterround (readGroup x g) := by
  simp only [PosGroup.positions, List.nodup_cons, List.mem_cons, List.not_mem_nil, or_false, not_or, Fin.ext_iff] at hg
  obtain ⟨⟨hij, hik, hil⟩, ⟨hjk, hjl⟩, hkl, -⟩ := hg
  simp [applyGroup, readGroup, Ne.symm hij, Ne.symm hik, Ne.symm hil, Ne.symm hjk, Ne.symm hjl, Ne.symm hkl]

/-- The quarter-round on a group keeps the words of a group with other positions. -/
theorem readGroup_applyGroup_of_disjoint (x : Words 16) {g h : PosGroup} (hd : g.positions.Disjoint h.positions) :
    readGroup (applyGroup x g) h = readGroup x h :=
  readGroup_eq_iff.2 fun _ hp => applyGroup_getElem_of_notMem x fun hpg => hd hpg hp

/-- Quarter-rounds on some groups keep the words of a group with other positions. -/
theorem readGroup_foldl_of_disjoint {gs : List PosGroup} {h : PosGroup}
    (hd : (gs.flatMap PosGroup.positions).Disjoint h.positions) (x : Words 16) :
    readGroup (gs.foldl applyGroup x) h = readGroup x h := by
  induction gs generalizing x with
  | nil => rfl
  | cons g gs ih =>
    rw [List.flatMap_cons, List.disjoint_append_left] at hd
    rw [List.foldl_cons, ih hd.2, readGroup_applyGroup_of_disjoint x hd.1]

/-- Quarter-rounds one after another on groups without a common position: none sees what another has done. -/
theorem quarterroundsOn_foldl {gs : List PosGroup} (hgs : (gs.flatMap PosGroup.positions).Nodup) :
    QuarterroundsOn gs (gs.foldl applyGroup) := by
  induction gs with
  | nil => exact fun _ _ hg => absurd hg List.not_mem_nil
  | cons g gs ih =>
    rw [List.flatMap_cons, List.nodup_append'] at hgs
    obtain ⟨hg, htail, hd⟩ := hgs
    intro x h hh
    simp only [List.foldl_cons]
    rcases List.mem_cons.1 hh with rfl | hh
    · rw [readGroup_foldl_of_disjoint hd.symm, readGroup_applyGroup_same x hg]
    · have hdh : g.positions.Disjoint h.positions := fun _ hp hp' => hd hp (List.mem_flatMap.2 ⟨h, hh, hp'⟩)
      rw [ih htail _ h hh, readGroup_applyGroup_of_disjoint x hdh]

/-- On groups that cover the positions only one function is the quarter-round on each. -/
theorem QuarterroundsOn.unique {gs : List PosGroup} {f f' : Words 16 → Words 16} (hgs : Covers gs)
    (hf : QuarterroundsOn gs f) (hf' : QuarterroundsOn gs f') : f = f' :=
  funext fun x => eq_of_readGroup_eq hgs fun g hg => (hf x g hg).trans (hf' x g hg).symm

/-- The groups of a round may be taken in any order. -/
theorem QuarterroundsOn.foldl_eq {gs hs : List PosGroup} {f : Words 16 → Words 16} (hgs : Covers gs)
    (hf : QuarterroundsOn gs f) (hp : hs.Perm gs) (x : Words 16) : hs.foldl applyGroup x = f x := by
  have hhs : Covers hs := (hp.flatMap_right _).trans hgs
  have hfold : QuarterroundsOn hs (hs.foldl applyGroup) :=
    quarterroundsOn_foldl (hhs.nodup_iff.2 (List.nodup_finRange 16))
  exact congrFun (hfold.unique hhs fun x g hg => hf x g (hp.mem_iff.1 hg)) x

/-- A round loses no information, since the quarter-round loses none. -/
theorem QuarterroundsOn.injective {gs : List PosGroup} {f : Words 16 → Words 16} (hgs : Covers gs)
    (hf : QuarterroundsOn gs f) : Function.Injective f := by
  intro x y h
  refine eq_of_readGroup_eq hgs fun g hg => quarterround_injective ?_
  rw [← hf x g hg, ← hf y g hg, h]

theorem covers_columnGroups : Covers columnGroups := by
  unfold Covers
  decide

theorem covers_rowGroups : Covers rowGroups := by
  unfold Covers
  decide

/-- The column round is the quarter-round on its four groups (R123). -/
theorem quarterroundsOn_columnround : QuarterroundsOn columnGroups columnround := by
  intro x g hg
  simp only [columnGroups, List.mem_cons, List.not_mem_nil, or_false] at hg
  rcases hg with rfl | rfl | rfl | rfl <;> rfl

/-- The row round is the quarter-round on its four groups (R124). -/
theorem quarterroundsOn_rowround : QuarterroundsOn rowGroups rowround := by
  intro x g hg
  simp only [rowGroups, List.mem_cons, List.not_mem_nil, or_false] at hg
  rcases hg with rfl | rfl | rfl | rfl <;> rfl

/-- Settles O20: in any order, the groups' quarter-rounds make the one function that is the quarter-round on each. -/
theorem roundGroupsRunInAnyOrder : Obligations.RoundGroupsRunInAnyOrder :=
  ⟨covers_columnGroups, covers_rowGroups, fun _ => quarterroundsOn_columnround.foldl_eq covers_columnGroups,
    fun _ => quarterroundsOn_rowround.foldl_eq covers_rowGroups⟩

/-- A state is its 16 words of 32 bits. -/
theorem finite_words (n : Nat) : Finite (Words n) :=
  Finite.of_injective (fun (x : Words n) (i : Fin n) => x[i]) fun _ _ h =>
    Vector.ext fun i hi => congrFun h ⟨i, hi⟩

/-- Settles O22: both rounds are injective, and there are finitely many states. -/
theorem doubleroundIsBijective : Obligations.DoubleroundIsBijective := by
  have := finite_words 16
  have hcol := quarterroundsOn_columnround.injective covers_columnGroups
  have hrow := quarterroundsOn_rowround.injective covers_rowGroups
  exact (hrow.comp hcol).bijective_of_finite

/-! ### The column round is the row round between transpositions (41_core_transform.md R126) -/

/-- Word (r, c) of the transposed state is word (c, r) of the state. -/
theorem transpose_getElem (x : Words 16) {r c : Nat} (hr : r < 4) (hc : c < 4) :
    (transpose x)[4 * r + c] = x[4 * c + r] := by
  interval_cases r <;> interval_cases c <;> rfl

@[simp] theorem transpose_transpose (x : Words 16) : transpose (transpose x) = x := by
  refine Vector.ext fun p hp => ?_
  interval_cases p <;> rfl

/-- The position of (c, r) for that of (r, c). -/
def transposePos (p : Fin 16) : Fin 16 := ⟨4 * (p.val % 4) + p.val / 4, by omega⟩

/-- The transposed positions, in the same (a, b, c, d) order. -/
def PosGroup.transpose (g : PosGroup) : PosGroup :=
  { i := transposePos g.i, j := transposePos g.j, k := transposePos g.k, l := transposePos g.l }

theorem transpose_getElem_transposePos (x : Words 16) (p : Fin 16) : (transpose x)[transposePos p] = x[p] := by
  have h := transpose_getElem x (r := p.val % 4) (c := p.val / 4) (by omega) (by omega)
  simpa [transposePos, Nat.div_add_mod] using h

/-- A transposed group of the transposed state holds the words of the group. -/
theorem readGroup_transpose (x : Words 16) (g : PosGroup) : readGroup (transpose x) g.transpose = readGroup x g := by
  simp only [readGroup, PosGroup.transpose, transpose_getElem_transposePos]

/-- Transposing each row-round group gives the column-round group (R126). -/
theorem columnGroups_eq_map_transpose : columnGroups = rowGroups.map PosGroup.transpose := by decide

/-- The row round between transpositions is the quarter-round on the transposed groups. -/
theorem quarterroundsOn_transposed_rowround :
    QuarterroundsOn columnGroups fun x => transpose (rowround (transpose x)) := by
  intro x h hh
  rw [columnGroups_eq_map_transpose] at hh
  obtain ⟨g, hg, rfl⟩ := List.mem_map.1 hh
  calc readGroup (transpose (rowround (transpose x))) g.transpose
      = readGroup (rowround (transpose x)) g := readGroup_transpose _ g
    _ = quarterround (readGroup (transpose x) g) := quarterroundsOn_rowround _ g hg
    _ = quarterround (readGroup x g.transpose) := by rw [← readGroup_transpose, transpose_transpose]

/-- Settles O21: both sides are the quarter-round on each column group. -/
theorem columnroundIsTransposedRowround : Obligations.ColumnroundIsTransposedRowround :=
  ⟨fun x _ _ => transpose_getElem x,
    congrFun (quarterroundsOn_columnround.unique covers_columnGroups quarterroundsOn_transposed_rowround)⟩

/-! ### The round sequencer (41_core_transform.md R131) -/

/-- Each pass of the sequencer's loop before round 20 adds 1 to RIDX. -/
theorem seqRounds_RIDX (n : Nat) {s : State} (h : s.RIDX.val + n ≤ 20) :
    (seqRounds n s).RIDX.val = s.RIDX.val + n := by
  induction n generalizing s with
  | zero => rfl
  | succ n ih =>
    have hpass : (seqRound s).RIDX.val = s.RIDX.val + 1 := by
      rw [seqRound, if_pos (by omega)]
      exact Nat.mod_eq_of_lt (by omega)
    rw [seqRounds, ih (by omega)]
    omega

/-- Settles O23: the sequencer writes X and RIDX only, and leaves ten double rounds and 20 in them. -/
theorem sequencerComputesTheCore : Obligations.SequencerComputesTheCore := by
  intro s
  refine ⟨seqFinal_runSequencer s, ?_⟩
  have hX : (runSequencer s).X = doublerounds 10 s.S := seqRounds_X 10 rfl
  have hR : (runSequencer s).RIDX = 20 := by
    apply Fin.ext
    rw [runSequencer, seqRounds_RIDX 20 (by simp)]
    rfl
  obtain ⟨x, r, h⟩ := runSequencer_frame s
  rw [h] at hX hR
  rw [h, ← hX, ← hR]

/-! ### The commands QR and HASH (41_core_transform.md R135, R136) -/

/-- Settles O24: QR does not look at VALID and EXH. -/
theorem qrAppliesTheQuarterround : Obligations.QrAppliesTheQuarterround := by
  refine ⟨decodeCmd_of_mem_opcodeMap (.qr, 4) (by decide), fun s q hq => ?_⟩
  subst hq
  rfl

/-- HASH and BLOCK report code 5 while VALID = 1 and EXH = 1. -/
theorem exec_hash_block_exhausted {s : State} (hv : s.VALID = true) (he : s.EXH = true) :
    exec .hash s = .next (finish 5 s) ∧ exec .block s = .next (finish 5 s) := by
  have hv' : ¬ s.VALID = false := by simp [hv]
  exact ⟨(if_neg hv').trans (if_pos he), (if_neg hv').trans (if_pos he)⟩

/-- Settles O25: the sequencer's result is the core of `S`, and the errors are `finish`. -/
theorem hashWritesTheKeystreamBlock : Obligations.HashWritesTheKeystreamBlock := by
  refine ⟨decodeCmd_of_mem_opcodeMap (.hash, 3) (by decide), fun s => ⟨fun hv he => ?_,
    fun hv => (exec_hash_block_notInitialised hv).1, fun hv he => (exec_hash_block_exhausted hv he).1⟩⟩
  obtain ⟨x, r, h⟩ := execHash_usable hv he
  exact ⟨x, r, s.draws + 1, h⟩

/-! ### HASH shows the next block (41_core_transform.md R136; 42_keystream.md R151, R152, R160) -/

/-- A chunk of 64 bytes masks no byte. -/
theorem lanemask_full {i : Nat} (hi : i < 16) : lanemask i 64 = 0xFFFFFFFF := by
  have h : min (64 - 4 * i) 4 = 4 := by omega
  simp [lanemask, h]

/-- A full chunk of zeros shows the keystream block itself. -/
theorem xorChunk_zero_full (z : Words 16) : xorChunk (Vector.replicate 16 0) z 64 = z := by
  refine Vector.ext fun i hi => ?_
  have hones : z[i] &&& 0xFFFFFFFF#32 = z[i] := BitVec.and_allOnes
  simp [xorChunk, lanemask_full hi, hones]

/-- The counter as a number: the high word times 2^32 plus the low word (R22). -/
theorem counter_toNat (S : Words 16) : (counter S).toNat = S[9].toNat * 2 ^ 32 + S[8].toNat := by
  rw [counter, BitVec.toNat_append, Nat.shiftLeft_eq, Nat.mul_comm]
  exact (Nat.two_pow_add_eq_or_of_lt S[8].isLt _).symm

/-- The counter words after an increment: the high word takes the carry of the low word (R152). -/
theorem counterIncrement_S_eight (s : State) : (counterIncrement s).S[8] = s.S[8] + 1 := by
  simp [counterIncrement]

theorem counterIncrement_S_nine (s : State) :
    (counterIncrement s).S[9] = if s.S[8] = 0xFFFFFFFF then s.S[9] + 1 else s.S[9] := by
  simp only [counterIncrement]
  split <;> simp

/-- The increment adds 1 to the 64-bit counter (R152). -/
theorem counter_counterIncrement (s : State) : counter (counterIncrement s).S = counter s.S + 1 := by
  apply BitVec.eq_of_toNat_eq
  rw [BitVec.toNat_add, counter_toNat, counter_toNat, counterIncrement_S_eight, counterIncrement_S_nine]
  split
  next h =>
    rw [h]
    bv_omega
  next h =>
    have hlow : s.S[8].toNat ≠ 0xFFFFFFFF := fun hn => h (BitVec.eq_of_toNat_eq hn)
    bv_omega

/-- BLOCK on a full chunk of zeros writes the keystream block itself and counts it. -/
theorem exec_block_zero_full {s : State} (hv : s.VALID = true) (he : s.EXH = false) (hl : s.LEN = 64#7)
    (hd : s.DIN = Vector.replicate 16 0) :
    ∃ t, exec .block s = .next t ∧ t.DOUT = coreBlock s.S ∧ counter t.S = counter s.S + 1 := by
  obtain ⟨x, r, h⟩ := execBlock_usable hv he (by simp [hl]) (by simp [hl])
  refine ⟨_, h, ?_, counter_counterIncrement s⟩
  rw [hd, hl]
  exact xorChunk_zero_full (coreBlock s.S)

/-- Settles O31: HASH keeps `S`, so BLOCK computes the same core, and a full chunk of zeros shows it. -/
theorem hashShowsTheNextBlock : Obligations.HashShowsTheNextBlock := by
  intro s hv he hl hd
  obtain ⟨x, r, hhash⟩ := execHash_usable hv he
  obtain ⟨u, hblock, hout, hcount⟩ := exec_block_zero_full
    (s := finish 0 { s with DOUT := coreBlock s.S, X := x, RIDX := r, draws := s.draws + 1 }) hv he hl hd
  exact ⟨_, u, hhash, hblock, hout, rfl, hcount⟩

end Sys2Proof.Machine
end

section
/-! SUPPORT. The statements of the keystream and its XOR datapath (42_keystream.md): the counter within a stream (R152, R153,
R160) and one BLOCK (R150, R151). -/

namespace Sys2Proof.Machine

/-! ### The counter (R152, R153) -/

/-- All ones in the counter are all ones in both its words (R22). -/
theorem counter_eq_allOnes_iff (S : Words 16) :
    counter S = 0xFFFFFFFFFFFFFFFF ↔ S[8] = 0xFFFFFFFF ∧ S[9] = 0xFFFFFFFF := by
  have hS := counter_toNat S
  constructor
  · intro h
    rw [h] at hS
    exact ⟨by bv_omega, by bv_omega⟩
  · rintro ⟨h8, h9⟩
    rw [counter, h8, h9]
    rfl

/-- The increment either exhausts the counter or takes it one further as a number (R152, R153). -/
theorem counterIncrement_exhausts_or_advances (s : State) :
    (counterIncrement s).EXH = true ∨ (counter (counterIncrement s).S).toNat = (counter s.S).toNat + 1 := by
  by_cases h : counter s.S = 0xFFFFFFFFFFFFFFFF
  · exact .inl (if_pos ((counter_eq_allOnes_iff s.S).1 h))
  · have hlt : (counter s.S).toNat ≠ 0xFFFFFFFFFFFFFFFF := fun hn => h (BitVec.eq_of_toNat_eq hn)
    rw [counter_counterIncrement]
    exact .inr (by bv_omega)

/-- Settles O29: the two counter words after an increment, and the two ways EXH can be 1 after it. -/
theorem counterIncrementCarries : Obligations.CounterIncrementCarries := by
  intro s
  refine ⟨counter_counterIncrement s, ?_, ?_⟩
  · rw [counterIncrement_S_nine]
    split
    next h => simp [h]
    next h => exact iff_of_false (fun hne => hne rfl) h
  · rw [counter_eq_allOnes_iff, counterIncrement]
    dsimp only
    split
    next h => exact iff_of_true rfl (.inr h)
    next h => exact (or_iff_left h).symm

/-- What the increment writes depends on `S` and EXH only (R152, R153). -/
theorem counterIncrement_congr {s t : State} (hS : t.S = s.S) (hE : t.EXH = s.EXH) :
    (counterIncrement t).S = (counterIncrement s).S ∧ (counterIncrement t).EXH = (counterIncrement s).EXH := by
  simp only [counterIncrement, hS, hE, and_self]

/-! ### The counter within a stream (R160) -/

/-- A completion other than INIT and CLEAR does not take the counter below `c`, unless it is exhausted. -/
theorem Completion.counter_ge_or_exhausted {c : Nat} {s t : State} (h : Completion s t)
    (hi : decodeCmd s.PEND ≠ .ok .init) (hc : decodeCmd s.PEND ≠ .ok .clear)
    (hs : s.EXH = true ∨ c ≤ (counter s.S).toNat) : t.EXH = true ∨ c ≤ (counter t.S).toNat := by
  cases h with
  | builds hd hk ht => exact absurd hd hi
  | clears hd ht => exact absurd hd hc
  | usesBlock D X r hd hv he hl ht =>
    subst ht
    have hle : c ≤ (counter s.S).toNat := hs.resolve_left (by simp [he])
    refine (counterIncrement_exhausts_or_advances s).imp_right fun hadv => ?_
    change c ≤ (counter (counterIncrement s).S).toNat
    omega
  | _ => subst_vars; exact hs

/-- Settles O54: an access keeps `S` and EXH, and the completion within a stream is no INIT and no CLEAR. -/
theorem counterNeverFallsWithinAStream : Obligations.CounterNeverFallsWithinAStream := by
  intro c s t h hnr hni hnc hs
  cases stepEffect_of_step h with
  | reset hr _ _ => exact absurd hr hnr
  | access hk _ _ => rwa [hk.EXH, hk.S]
  | completion u v hcomp hp hku _ _ hc hkt _ _ =>
    rw [hkt.EXH, hkt.S]
    refine hc.counter_ge_or_exhausted (fun hd => hni (completes_of_pend hcomp hp hd))
      (fun hd => hnc (completes_of_pend hcomp hp hd)) ?_
    rwa [hku.EXH, hku.S]

/-- The same law along a run within one stream. -/
theorem StreamRun.counter_ge_or_exhausted {c : Nat} {s t : State} (h : StreamRun s t)
    (hs : s.EXH = true ∨ c ≤ (counter s.S).toNat) : t.EXH = true ∨ c ≤ (counter t.S).toNat := by
  induction h with
  | start => exact hs
  | next _ hnr hni hnc hstep ih => exact counterNeverFallsWithinAStream c _ _ hstep hnr hni hnc ih

/-- The completion step of a legal word is the command's meaning (R176). -/
theorem completeStep_of_ok {s : State} {i : Instr} (h : decodeCmd s.PEND = .ok i) : completeStep s = exec i s := by
  rw [completeStep, h]

/-- In a step that completes the command `i` its meaning runs, and beside it no register of the cipher and no operand
changes (R176, R181 (c)). -/
theorem exec_of_completes {s t : State} {i : Instr} (h : step s = .next t) (hi : s.Completes i) :
    ∃ u v, exec i u = .next v ∧ CipherKept s u ∧ OperandsKept s u ∧ CipherKept v t := by
  obtain ⟨e', he', hr', hd', hB', hp⟩ := hi
  have hedge {e : Edge} (he : nextEvent s = .edge e) : e.rstN = true ∧ e.done = true := by
    obtain rfl : e = e' := by simpa [he] using he'
    exact ⟨hr', hd'⟩
  cases stepIs_of_step h with
  | reset e he hr ht => simp [(hedge he).1] at hr
  | idle e he hr hb hd ht => simp [(hedge he).2, hB'] at hd
  | busyWrite e x a d he hr hx hw hB hd ht => simp [(hedge he).2] at hd
  | busyRead e x a w n he hr hx hw hB hd ht => simp [(hedge he).2] at hd
  | idleWrite e x a d he hr hx hw hB ht => simp [hB] at hB'
  | idleRead e x a w he hr hx hw hB ht => simp [hB] at hB'
  | completion e u v w w' rs n n' he hr hB hd hu hw hv ht hw' =>
    have hpu : decodeCmd u.PEND = .ok i := hu ▸ hp
    rw [completeStep_of_ok hpu] at hv
    subst hu ht
    exact ⟨_, v, hv, ⟨rfl, rfl, rfl, rfl, rfl, rfl⟩,
      ⟨rfl, rfl, rfl, rfl, rfl, rfl, rfl⟩, ⟨rfl, rfl, rfl, rfl, rfl, rfl⟩⟩

/-- A successful BLOCK of at least one byte starts from a counter that is not exhausted, and increments it. -/
theorem State.UsesBlock.increments {s t : State} (h : s.UsesBlock t) :
    s.EXH = false ∧ t.EXH = (counterIncrement s).EXH ∧ t.S = (counterIncrement s).S := by
  obtain ⟨hcomp, hl, hstep, h0⟩ := h
  obtain ⟨u, v, hx, hku, hou, hkt⟩ := exec_of_completes hstep hcomp
  have hv0 : v.ERR = 0 := hkt.ERR.symm.trans h0
  have hlu : 1 ≤ u.LEN.toNat := by rwa [hou.LEN]
  rcases exec_block_cases hx with
    ⟨-, rfl⟩ | ⟨-, -, rfl⟩ | ⟨-, -, -, rfl⟩ | ⟨-, -, hz, -⟩ | ⟨-, he, -, -, x, r, rfl⟩
  · exact absurd hv0 (by simp)
  · exact absurd hv0 (by simp)
  · exact absurd hv0 (by simp)
  · omega
  · obtain ⟨hS, hE⟩ := counterIncrement_congr hku.S hku.EXH
    exact ⟨hku.EXH.symm.trans he, hkt.EXH.trans hE, hkt.S.trans hS⟩

/-- Settles O55: after the earlier BLOCK the counter is past the value it used, and the later BLOCK finds it not
exhausted. -/
theorem noCounterValueIsUsedTwice : Obligations.NoCounterValueIsUsedTwice := by
  intro s s₁ t t₁ hs hrun ht
  obtain ⟨-, hE, hS⟩ := hs.increments
  have hpast : s₁.EXH = true ∨ (counter s.S).toNat + 1 ≤ (counter s₁.S).toNat := by
    rw [hE, hS]
    exact (counterIncrement_exhausts_or_advances s).imp_right fun h => h.ge
  exact (hrun.counter_ge_or_exhausted hpast).resolve_left (by simp [ht.increments.1])

/-! ### Bytes of chunks (R56, R151) -/

/-- A word is known by its four bytes (R12). -/
theorem word_eq_of_byteOf {v w : Word} (h : ∀ j, j < 4 → byteOf v j = byteOf w j) : v = w := by
  rw [← le32_byteOf v, ← le32_byteOf w, h 0 (by decide), h 1 (by decide), h 2 (by decide), h 3 (by decide)]

/-- Byte `4 * i + j` of words is byte `j` of word `i` (R56). -/
theorem byteAt_of_word {n : Nat} (W : Words n) {i j : Nat} (hi : i < n) (hj : j < 4) :
    byteAt W (4 * i + j) = byteOf W[i] j := by
  have hdiv : (4 * i + j) / 4 = i := by omega
  have hmod : (4 * i + j) % 4 = j := by omega
  simp [byteAt, hdiv, hmod, hi]

/-- Words are known by their bytes (R56). -/
theorem words_eq_of_byteAt {n : Nat} {V W : Words n} (h : ∀ k, k < 4 * n → byteAt V k = byteAt W k) : V = W :=
  Vector.ext fun i hi => word_eq_of_byteOf fun j hj => by
    rw [← byteAt_of_word V hi hj, ← byteAt_of_word W hi hj, h _ (by omega)]

/-- The serialisation of 16 words has byte `k` at position `k` (R12). -/
theorem ser_getD (W : Words 16) {k : Nat} (hk : k < 64) : (ser W).getD k 0 = byteAt W k := by
  simp [ser, hk]

/-- The word whose `n` low bytes are FF and whose other bytes are 0, as `lanemask` writes it (R151). -/
theorem byteOf_lowBytesMask : ∀ n, n ≤ 4 → ∀ j, j < 4 →
    byteOf (if n = 4 then 0xFFFFFFFF else BitVec.ofNat 32 (2 ^ (8 * n) - 1)) j = if j < n then 0xFF else 0 := by
  decide

/-- Byte `j` of `lanemask(i, L)` is FF exactly when `4 * i + j` is below `L` (R151). -/
theorem byteOf_lanemask (i L : Nat) {j : Nat} (hj : j < 4) :
    byteOf (lanemask i L) j = if 4 * i + j < L then 0xFF else 0 := by
  have hiff : 4 * i + j < L ↔ j < min (L - 4 * i) 4 := by omega
  simp only [lanemask, hiff]
  exact byteOf_lowBytesMask _ (min_le_right _ _) j hj

/-- Output byte `k` of a chunk of `L` bytes (R151). -/
theorem byteAt_xorChunk (d z : Words 16) (L : Nat) {k : Nat} (hk : k < 64) :
    byteAt (xorChunk d z L) k = if k < L then byteAt d k ^^^ byteAt z k else 0 := by
  obtain ⟨i, j, hj, rfl⟩ : ∃ i j, j < 4 ∧ k = 4 * i + j := ⟨k / 4, k % 4, by omega, by omega⟩
  have hi : i < 16 := by omega
  have hword : (xorChunk d z L)[i] = (d[i] ^^^ z[i]) &&& lanemask i L := by simp [xorChunk]
  have hff (b : Byte) : b &&& 0xFF = b := BitVec.and_allOnes
  rw [byteAt_of_word _ hi hj, byteAt_of_word _ hi hj, byteAt_of_word _ hi hj, hword, byteOf_and, byteOf_xor,
    byteOf_lanemask i L hj]
  split
  · exact hff _
  · exact BitVec.and_zero

/-- The chunk does not depend on the data bytes at positions from `L` on (R151). -/
theorem xorChunk_congr {d e : Words 16} {L : Nat} (h : ∀ k, k < L → byteAt d k = byteAt e k) (z : Words 16) :
    xorChunk d z L = xorChunk e z L :=
  words_eq_of_byteAt fun k hk => by
    rw [byteAt_xorChunk d z L hk, byteAt_xorChunk e z L hk]
    split
    next hL => rw [h k hL]
    next => rfl

/-! ### BLOCK, by the state and the length (R150, R154; 60_exceptions.md R179) -/

/-- BLOCK reports code 4 for more than 64 bytes. -/
theorem exec_block_badDataLength {s : State} (hv : s.VALID = true) (he : s.EXH = false) (hl : 64 < s.LEN.toNat) :
    exec .block s = .next (finish 4 s) := by
  simp [exec, execBlock, hv, he, hl, ErrorCode.code]

/-- BLOCK of no bytes clears DOUT and uses no block. -/
theorem exec_block_empty {s : State} (hv : s.VALID = true) (he : s.EXH = false) (hl : s.LEN.toNat = 0) :
    exec .block s = .next (finish 0 { s with DOUT := Vector.replicate 16 0 }) := by
  simp [exec, execBlock, hv, he, hl]

/-- The state after a BLOCK of 1 to 64 bytes on a usable state. -/
def blockDone (s : State) : State :=
  finish 0 { s with
    DOUT := xorChunk s.DIN (coreBlock s.S) s.LEN.toNat
    S := (counterIncrement s).S, EXH := (counterIncrement s).EXH
    X := Config.hiddenX s.draws, RIDX := Config.hiddenRIDX s.draws, draws := s.draws + 1 }

/-- BLOCK of 1 to 64 bytes on a usable state (R150). -/
theorem exec_block_chunk {s : State} (hv : s.VALID = true) (he : s.EXH = false) (h1 : 1 ≤ s.LEN.toNat)
    (h64 : s.LEN.toNat ≤ 64) : exec .block s = .next (blockDone s) := by
  have hne : s.LEN.toNat ≠ 0 := by omega
  obtain ⟨hfinal, hrun⟩ := sequencerComputesTheCore s
  rw [exec, execBlock, if_neg (by simp [hv]), if_neg (by simp [he]), if_neg (by omega), if_neg hne]
  dsimp only
  rw [hfinal, hrun]
  rfl

/-- Settles O26: the four outcomes of BLOCK, with the counter as a 64-bit number. -/
theorem blockXorsOneChunk : Obligations.BlockXorsOneChunk := by
  refine ⟨decodeCmd_of_mem_opcodeMap (.block, 2) (by decide), fun s => ⟨fun hv he h1 h64 => ?_, exec_block_empty,
    fun hv => (exec_hash_block_notInitialised hv).2, fun hv he => (exec_hash_block_exhausted hv he).2,
    exec_block_badDataLength⟩⟩
  have hexh : (counterIncrement s).EXH = decide (s.S[9] ++ s.S[8] = BitVec.allOnes 64) := by
    rw [Bool.eq_iff_iff, decide_eq_true_iff, counterIncrement_EXH_eq_true he, ← counter_eq_allOnes_iff]
    rfl
  refine ⟨xorChunk s.DIN (coreBlock s.S) s.LEN.toNat, (counterIncrement s).S, Config.hiddenX s.draws,
    Config.hiddenRIDX s.draws, s.draws + 1, ?_, fun i => by simp [xorChunk], counter_counterIncrement s,
    fun i h8 h9 => counterIncrement_S_getElem s i.isLt (fun h => h8 (Fin.ext h)) (fun h => h9 (Fin.ext h))⟩
  rw [exec_block_chunk hv he h1 h64, blockDone, hexh]
  rfl

/-- Settles O27: the bytes of the masked XOR, and those of the mask. -/
theorem outputBytesOfAChunk : Obligations.OutputBytesOfAChunk := by
  refine ⟨fun s hv he h1 h64 => ⟨_, exec_block_chunk hv he h1 h64, fun k hk => ?_⟩,
    fun i j L _ hj _ _ => byteOf_lanemask i L hj⟩
  rw [ser_getD _ hk]
  exact byteAt_xorChunk _ _ _ hk

/-- Settles O28: each outcome of BLOCK looks at DIN only through the masked XOR. -/
theorem paddingBytesDoNotMatter : Obligations.PaddingBytesDoNotMatter := by
  intro s d hd
  have hchunk : blockDone { s with DIN := d } = { blockDone s with DIN := d } := by
    simp only [blockDone, xorChunk_congr hd (coreBlock s.S)]
    rfl
  rcases Bool.eq_false_or_eq_true s.VALID with hv | hv
  · rcases Bool.eq_false_or_eq_true s.EXH with he | he
    · exact ⟨_, (exec_hash_block_exhausted hv he).2, (exec_hash_block_exhausted (s := { s with DIN := d }) hv he).2⟩
    · by_cases h64 : 64 < s.LEN.toNat
      · exact ⟨_, exec_block_badDataLength hv he h64, exec_block_badDataLength (s := { s with DIN := d }) hv he h64⟩
      · by_cases h0 : s.LEN.toNat = 0
        · exact ⟨_, exec_block_empty hv he h0, exec_block_empty (s := { s with DIN := d }) hv he h0⟩
        · have h1 : 1 ≤ s.LEN.toNat := by omega
          have hle : s.LEN.toNat ≤ 64 := by omega
          exact ⟨_, exec_block_chunk hv he h1 hle,
            (exec_block_chunk (s := { s with DIN := d }) hv he h1 hle).trans (congrArg Host.Outcome.next hchunk)⟩
  · exact ⟨_, (exec_hash_block_notInitialised hv).2, (exec_hash_block_notInitialised (s := { s with DIN := d }) hv).2⟩

/-- Settles O30: from all ones the increment wraps the counter and sets EXH, where HASH and BLOCK report code 5. -/
theorem exhaustionStopsTheKeystream : Obligations.ExhaustionStopsTheKeystream := by
  intro s hv he h1 h64 hones
  obtain ⟨h8, h9⟩ := (counter_eq_allOnes_iff s.S).1 hones
  have hexh : (blockDone s).EXH = true := (counterIncrement_EXH_eq_true he).2 ⟨h8, h9⟩
  obtain ⟨hhash, hblock⟩ := exec_hash_block_exhausted (s := blockDone s) hv hexh
  refine ⟨blockDone s, exec_block_chunk hv he h1 h64, rfl, hexh, ?_, ?_, fun i => ?_, hblock, hhash⟩
  · exact (counterIncrement_S_eight s).trans (by rw [h8]; rfl)
  · exact (counterIncrement_S_nine s).trans (by rw [if_pos h8, h9]; rfl)
  · simp [blockDone, xorChunk]

end Sys2Proof.Machine
end

section
/-! SUPPORT. The statements of `transform` (42_keystream.md R155 to R158): one chunk on the unit, the chunks of a byte string,
the split at a block boundary and the round trip. -/

namespace Sys2Proof.Machine

/-! ### The bytes of one chunk of `transform` (R155) -/

/-- Byte `k` of bytes packed into words is byte `k` of the sequence, or 0 past its end (R56). -/
theorem byteAt_packWords {n : Nat} (m : List Byte) {k : Nat} (hk : k < 4 * n) :
    byteAt (packWords n m) k = m.getD k 0 := by
  obtain ⟨i, j, hj, rfl⟩ : ∃ i j, j < 4 ∧ k = 4 * i + j := ⟨k / 4, k % 4, by omega, by omega⟩
  rw [byteAt_of_word _ (by omega) hj, packWords, Vector.getElem_ofFn]
  interval_cases j <;> simp

/-- The bytes of 16 words one after another are their serialisation (R12). -/
theorem flatMap_wordBytes_eq_ser (W : Words 16) :
    ((List.finRange 16).map fun i => W[i]).flatMap wordBytes = ser W := by
  rfl

/-- The output bytes of a chunk: each the XOR of the data byte and the keystream byte (R151). -/
def xorBytes (m : List Byte) (S : Words 16) : List Byte := List.zipWith (· ^^^ ·) m (ser (coreBlock S))

@[simp] theorem ser_length (W : Words 16) : (ser W).length = 64 := by simp [ser]

theorem xorBytes_length {m : List Byte} (h : m.length ≤ 64) (S : Words 16) : (xorBytes m S).length = m.length := by
  simp [xorBytes, h]

theorem xorBytes_getD {m : List Byte} (h : m.length ≤ 64) (S : Words 16) {k : Nat} (hk : k < m.length) :
    (xorBytes m S).getD k 0 = m.getD k 0 ^^^ (ser (coreBlock S)).getD k 0 := by
  have hk' : k < 64 := by omega
  simp [xorBytes, hk, hk']

/-- The XOR with one keystream block undoes itself (R156). -/
theorem xorBytes_xorBytes {m : List Byte} (h : m.length ≤ 64) (S : Words 16) : xorBytes (xorBytes m S) S = m := by
  refine List.ext_getElem (by simp [xorBytes, h]) fun k _ _ => ?_
  simp [xorBytes]

/-- The host takes the output bytes from the first bytes of DOUT (R155). -/
theorem take_ser_xorChunk {m : List Byte} (h : m.length ≤ 64) (S : Words 16) :
    (ser (xorChunk (packWords 16 m) (coreBlock S) m.length)).take m.length = xorBytes m S := by
  refine List.ext_getElem (by simp [xorBytes, h]) fun k hk _ => ?_
  have hkm : k < m.length := by simp at hk; omega
  have hk64 : k < 64 := by omega
  have hbyte := byteAt_xorChunk (packWords 16 m) (coreBlock S) m.length hk64
  rw [if_pos hkm, byteAt_packWords m hk64] at hbyte
  simpa [xorBytes, ser, hkm] using hbyte

/-! ### One chunk of `transform` on the unit (R155, R157) -/

/-- What INIT builds the state from (R103). -/
structure KeySetup where
  ROM : ConstROM
  KEY : Words 8
  NONCE : Words 2
  KLEN : BitVec 6
  NLEN : BitVec 4

/-- The registers of `s` that INIT reads. -/
def State.keySetup (s : State) : KeySetup :=
  { ROM := s.ROM, KEY := s.KEY, NONCE := s.NONCE, KLEN := s.KLEN, NLEN := s.NLEN }

@[simp] theorem blockDone_ROM (s : State) : (blockDone s).ROM = s.ROM := by simp only [blockDone, finish_ROM]
@[simp] theorem blockDone_KEY (s : State) : (blockDone s).KEY = s.KEY := by simp only [blockDone, finish_KEY]
@[simp] theorem blockDone_NONCE (s : State) : (blockDone s).NONCE = s.NONCE := by simp only [blockDone, finish_NONCE]
@[simp] theorem blockDone_KLEN (s : State) : (blockDone s).KLEN = s.KLEN := by simp only [blockDone, finish_KLEN]
@[simp] theorem blockDone_NLEN (s : State) : (blockDone s).NLEN = s.NLEN := by simp only [blockDone, finish_NLEN]
@[simp] theorem blockDone_BUSY (s : State) : (blockDone s).BUSY = false := by simp only [blockDone, finish_BUSY]
@[simp] theorem blockDone_VALID (s : State) : (blockDone s).VALID = s.VALID := by simp only [blockDone, finish_VALID]
@[simp] theorem blockDone_ERR (s : State) : (blockDone s).ERR = 0 := by simp only [blockDone, finish_ERR]
@[simp] theorem blockDone_reads (s : State) : (blockDone s).reads = s.reads := by simp only [blockDone, finish_reads]
@[simp] theorem blockDone_S (s : State) : (blockDone s).S = (counterIncrement s).S := by
  simp only [blockDone, finish_S]
@[simp] theorem blockDone_EXH (s : State) : (blockDone s).EXH = (counterIncrement s).EXH := by
  simp only [blockDone, finish_EXH]
@[simp] theorem blockDone_DOUT (s : State) :
    (blockDone s).DOUT = xorChunk s.DIN (coreBlock s.S) s.LEN.toNat := by simp only [blockDone, finish_DOUT]

/-- The unit with a chunk's length and bytes written to it. -/
def chunkLoaded (m : List Byte) (s : State) : State :=
  { s with LEN := (BitVec.ofNat 32 m.length).extractLsb' 0 7, DIN := packWords 16 m }

/-- The same unit with BLOCK pending. -/
def chunkPending (m : List Byte) (s : State) : State := startCommand Command.block.word (chunkLoaded m s)

@[simp] theorem chunkLoaded_BUSY (m : List Byte) (s : State) : (chunkLoaded m s).BUSY = s.BUSY := by
  simp only [chunkLoaded]
@[simp] theorem chunkPending_S (m : List Byte) (s : State) : (chunkPending m s).S = s.S := by
  simp only [chunkPending, startCommand_S, chunkLoaded]
@[simp] theorem chunkPending_VALID (m : List Byte) (s : State) : (chunkPending m s).VALID = s.VALID := by
  simp only [chunkPending, startCommand_VALID, chunkLoaded]
@[simp] theorem chunkPending_EXH (m : List Byte) (s : State) : (chunkPending m s).EXH = s.EXH := by
  simp only [chunkPending, startCommand_EXH, chunkLoaded]

theorem chunkPending_LEN {m : List Byte} (h : m.length ≤ 64) (s : State) :
    (chunkPending m s).LEN.toNat = m.length := by
  simp [chunkPending, chunkLoaded]
  omega

/-- The unit after a whole chunk, with the STATUS word and DOUT read by the host. -/
def chunkDone (m : List Byte) (s : State) : State :=
  { blockDone (chunkPending m s) with
    reads := s.reads ++ statusWord (blockDone (chunkPending m s)) ::
      (List.finRange 16).map fun i => (blockDone (chunkPending m s)).DOUT[i] }

@[simp] theorem chunkDone_BUSY (m : List Byte) (s : State) : (chunkDone m s).BUSY = false := by
  simp only [chunkDone, blockDone_BUSY]

@[simp] theorem chunkDone_VALID (m : List Byte) (s : State) : (chunkDone m s).VALID = s.VALID := by
  simp only [chunkDone, blockDone_VALID, chunkPending_VALID]

@[simp] theorem chunkDone_S (m : List Byte) (s : State) : (chunkDone m s).S = (counterIncrement s).S := by
  simp only [chunkDone, blockDone_S]
  exact (counterIncrement_congr (chunkPending_S m s) (chunkPending_EXH m s)).1

@[simp] theorem chunkDone_EXH (m : List Byte) (s : State) : (chunkDone m s).EXH = (counterIncrement s).EXH := by
  simp only [chunkDone, blockDone_EXH]
  exact (counterIncrement_congr (chunkPending_S m s) (chunkPending_EXH m s)).2

/-- A chunk leaves what INIT reads as it was (R23, R28, R29, R33). -/
@[simp] theorem chunkDone_keySetup (m : List Byte) (s : State) : (chunkDone m s).keySetup = s.keySetup := by
  simp only [State.keySetup, chunkDone, blockDone_ROM, blockDone_KEY, blockDone_NONCE, blockDone_KLEN, blockDone_NLEN,
    chunkPending, startCommand_ROM, startCommand_KEY, startCommand_NONCE, startCommand_KLEN, startCommand_NLEN,
    chunkLoaded]

/-- The edges of a chunk on a usable idle unit. -/
theorem runEdges_chunkEdges {m : List Byte} {s : State} (hb : s.BUSY = false) (hv : s.VALID = true)
    (he : s.EXH = false) (h1 : 1 ≤ m.length) (h64 : m.length ≤ 64) :
    runEdges (chunkEdges m) s = .next (chunkDone m s) := by
  have hload : runEdges (([hostWr .dlen (BitVec.ofNat 32 m.length)] ++
      (Pseudo.lddin (packWords 16 m)).expand).map busEdge) s = .next (chunkLoaded m s) := by
    rw [List.map_append, List.map_singleton, List.singleton_append, runEdges_cons_next (clockEdge_hostWr _ _ hb)]
    exact runEdges_lddin (packWords 16 m) (s := writeDlen (BitVec.ofNat 32 m.length) s) hb
  have hlen := chunkPending_LEN h64 s
  have hblock : completeStep (chunkPending m s) = .next (blockDone (chunkPending m s)) :=
    (completeStep_of_ok (s := chunkPending m s) (decodeCmd_word .block)).trans
      (exec_block_chunk ((chunkPending_VALID m s).trans hv) ((chunkPending_EXH m s).trans he) (by omega) (by omega))
  have hbusy : (chunkLoaded m s).BUSY = false := (chunkLoaded_BUSY m s).trans hb
  have hidle : (blockDone (chunkPending m s)).BUSY = false := blockDone_BUSY _
  rw [chunkEdges, List.append_assoc, runEdges_append_next hload,
    runEdges_append_next (runEdges_command .block hbusy hblock hidle), runEdges_rdout]
  · simp only [chunkDone, blockDone_reads, chunkPending, startCommand_reads, chunkLoaded, List.append_assoc,
      List.singleton_append]
  · exact hidle

/-- A chunk on a usable idle unit: the host finds no error and takes the XOR with the keystream block. -/
theorem transformChunk_eq {m : List Byte} {s : State} (hb : s.BUSY = false) (hv : s.VALID = true) (he : s.EXH = false)
    (h1 : 1 ≤ m.length) (h64 : m.length ≤ 64) : transformChunk m s = some (xorBytes m s.S, chunkDone m s) := by
  have hDOUT : (blockDone (chunkPending m s)).DOUT = xorChunk (packWords 16 m) (coreBlock s.S) m.length := by
    rw [blockDone_DOUT, chunkPending_LEN h64]
    simp only [chunkPending, startCommand_DIN, startCommand_S, chunkLoaded]
  have hread : observed s (chunkDone m s) = statusWord (blockDone (chunkPending m s)) ::
      (List.finRange 16).map fun i => (blockDone (chunkPending m s)).DOUT[i] := by
    simp [observed, chunkDone]
  obtain ⟨hBUSY, -, -, -, -, hERR, -, -⟩ := statusWordLayout (blockDone (chunkPending m s))
  rw [blockDone_BUSY] at hBUSY
  replace hERR := hERR.trans (blockDone_ERR (chunkPending m s))
  simp only [transformChunk, runEdges_chunkEdges hb hv he h1 h64, hread, waitOver, bbsTaken, hBUSY, hERR, Bool.not_false,
    BitVec.ofNat_eq_ofNat, decide_true, Bool.and_self, if_true, flatMap_wordBytes_eq_ser, hDOUT, take_ser_xorChunk h64]

/-- Settles O57: the chunk's output is the XOR with the keystream block, and the unit after it is that after BLOCK. -/
theorem transformChunkXorsTheKeystream : Obligations.TransformChunkXorsTheKeystream := by
  intro s m hb hv he h1 h64
  obtain ⟨hROM, hKEY, hNONCE, hKLEN, hNLEN⟩ := KeySetup.mk.inj (chunkDone_keySetup m s)
  refine ⟨_, chunkDone m s, transformChunk_eq hb hv he h1 h64, xorBytes_length h64 s.S,
    fun k hk => xorBytes_getD h64 s.S hk, chunkDone_BUSY m s, (chunkDone_VALID m s).trans hv, ?_, ?_,
    hKEY, hNONCE, hKLEN, hNLEN, hROM, fun i h8 h9 => ?_⟩
  · rw [chunkDone_S, counter_counterIncrement]
  · rw [chunkDone_EXH, counterIncrement_EXH_eq_true he, counter_eq_allOnes_iff]
  · rw [chunkDone_S]
    exact counterIncrement_S_getElem s i.isLt (fun h => h8 (Fin.ext h)) (fun h => h9 (Fin.ext h))

/-! ### The chunks of a byte string (R155) -/

/-- Chunks as R155 cuts them: blocks of 64 bytes, and at the end one of 1 to 64. -/
inductive BlockAligned : List (List Byte) → Prop where
  | nil : BlockAligned []
  | last {c : List Byte} (h1 : 1 ≤ c.length) (h64 : c.length ≤ 64) : BlockAligned [c]
  | block {c : List Byte} {cs : List (List Byte)} (hc : c.length = 64) (hcs : BlockAligned cs) : BlockAligned (c :: cs)

/-- No chunk is empty, and none is longer than a block. -/
theorem BlockAligned.length_of_mem {cs : List (List Byte)} (h : BlockAligned cs) :
    ∀ c ∈ cs, 1 ≤ c.length ∧ c.length ≤ 64 := by
  induction h with
  | nil => simp
  | last h1 h64 => simpa using ⟨h1, h64⟩
  | block hc _ ih => exact List.forall_mem_cons.2 ⟨by omega, ih⟩

/-- Every byte string is cut into chunks. -/
theorem exists_blockAligned_flatten_eq (m : List Byte) : ∃ cs, BlockAligned cs ∧ cs.flatten = m := by
  induction hn : m.length using Nat.strong_induction_on generalizing m with
  | _ n ih =>
    by_cases h0 : m.length = 0
    · exact ⟨[], .nil, (List.length_eq_zero_iff.1 h0).symm⟩
    · by_cases h64 : m.length ≤ 64
      · exact ⟨[m], .last (by omega) h64, by simp⟩
      · obtain ⟨cs, hcs, hm⟩ := ih (m.drop 64).length (by rw [List.length_drop]; omega) (m.drop 64) rfl
        exact ⟨m.take 64 :: cs, .block (by rw [List.length_take]; omega) hcs, by
          rw [List.flatten_cons, hm, List.take_append_drop]⟩

theorem chunksOf_length (m : List Byte) : (chunksOf m).length = (m.length + 63) / 64 := by simp [chunksOf]

/-- A string of 1 to 64 bytes is one chunk. -/
theorem chunksOf_of_short {c : List Byte} (h1 : 1 ≤ c.length) (h64 : c.length ≤ 64) : chunksOf c = [c] := by
  have hone : (c.length + 63) / 64 = 1 := by omega
  simp [chunksOf, hone, h64]

/-- At a block boundary the chunks are those of the two parts (R158). -/
theorem chunksOf_append {m₁ : List Byte} (h : m₁.length % 64 = 0) (m₂ : List Byte) :
    chunksOf (m₁ ++ m₂) = chunksOf m₁ ++ chunksOf m₂ := by
  have hcount : ((m₁ ++ m₂).length + 63) / 64 = (m₁.length + 63) / 64 + (m₂.length + 63) / 64 := by
    rw [List.length_append]
    omega
  have hblocks : 64 * ((m₁.length + 63) / 64) = m₁.length := by omega
  rw [chunksOf, hcount, List.range_add, List.map_append, List.map_map]
  congr 1
  · refine List.map_congr_left fun j hj => ?_
    have hj' : 64 * j + 64 ≤ m₁.length := by
      rw [List.mem_range] at hj
      omega
    rw [List.drop_append_of_le_length (by omega), List.take_append_of_le_length (by rw [List.length_drop]; omega)]
  · refine List.map_congr_left fun j _ => ?_
    rw [Function.comp_apply, Nat.mul_add, hblocks, List.drop_length_add_append]

/-- `chunksOf` finds the chunks again. -/
theorem chunksOf_flatten {cs : List (List Byte)} (h : BlockAligned cs) : chunksOf cs.flatten = cs := by
  induction h with
  | nil => rfl
  | last h1 h64 => rw [List.flatten_singleton, chunksOf_of_short h1 h64]
  | block hc _ ih =>
    rw [List.flatten_cons, chunksOf_append (by omega), chunksOf_of_short (by omega) (by omega), ih, List.singleton_append]

theorem blockAligned_chunksOf (m : List Byte) : BlockAligned (chunksOf m) := by
  obtain ⟨cs, hcs, rfl⟩ := exists_blockAligned_flatten_eq m
  rwa [chunksOf_flatten hcs]

theorem flatten_chunksOf (m : List Byte) : (chunksOf m).flatten = m := by
  obtain ⟨cs, hcs, rfl⟩ := exists_blockAligned_flatten_eq m
  rw [chunksOf_flatten hcs]

/-! ### The keystream XORed to chunks (R156, R158) -/

/-- The cipher state of the next block, which depends on the cipher state alone (R152). -/
def nextBlockState (S : Words 16) : Words 16 := (counterIncrement { State.reset with S := S }).S

theorem counterIncrement_S (s : State) : (counterIncrement s).S = nextBlockState s.S := rfl

/-- Chunks XORed with the keystream blocks from the cipher state `S` on. -/
def xorStream : List (List Byte) → Words 16 → List (List Byte)
  | [], _ => []
  | c :: cs, S => xorBytes c S :: xorStream cs (nextBlockState S)

/-- The XOR with a keystream keeps the cut into chunks. -/
theorem BlockAligned.xorStream {cs : List (List Byte)} (h : BlockAligned cs) (S : Words 16) :
    BlockAligned (xorStream cs S) := by
  induction h generalizing S with
  | nil => exact .nil
  | last h1 h64 => exact .last (by rwa [xorBytes_length h64]) (by rwa [xorBytes_length h64])
  | block hc _ ih => exact .block (by rw [xorBytes_length (by omega), hc]) (ih _)

section LengthsAtMost64

variable {cs : List (List Byte)} (hcs : ∀ c ∈ cs, 1 ≤ c.length ∧ c.length ≤ 64)
include hcs

theorem xorStream_lengths (S : Words 16) : (xorStream cs S).map List.length = cs.map List.length := by
  induction cs generalizing S with
  | nil => rfl
  | cons c cs ih =>
    obtain ⟨hc, hcs⟩ := List.forall_mem_cons.1 hcs
    rw [xorStream, List.map_cons, List.map_cons, xorBytes_length hc.2, ih hcs]

/-- The XOR with a keystream undoes itself (R156). -/
theorem xorStream_xorStream (S : Words 16) : xorStream (xorStream cs S) S = cs := by
  induction cs generalizing S with
  | nil => rfl
  | cons c cs ih =>
    obtain ⟨hc, hcs⟩ := List.forall_mem_cons.1 hcs
    rw [xorStream, xorStream, xorBytes_xorBytes hc.2, ih hcs]

theorem xorStream_flatten_length (S : Words 16) : (xorStream cs S).flatten.length = cs.flatten.length := by
  rw [List.length_flatten, List.length_flatten, xorStream_lengths hcs]

end LengthsAtMost64

/-! ### `transform` (R155 to R158) -/

/-- An idle unit with a built state and at least `n` blocks left before the counter is exhausted (R153). -/
structure HasBlocks (n : Nat) (s : State) : Prop where
  idle : s.BUSY = false
  built : s.VALID = true
  left : 0 < n → s.EXH = false ∧ (counter s.S).toNat + n ≤ 2 ^ 64

theorem HasBlocks.mono {n k : Nat} {s : State} (h : HasBlocks k s) (hn : n ≤ k) : HasBlocks n s :=
  ⟨h.idle, h.built, fun h0 => ⟨(h.left (by omega)).1, by have := (h.left (by omega)).2; omega⟩⟩

/-- A chunk uses one block. -/
theorem HasBlocks.chunkDone {n : Nat} {s : State} (h : HasBlocks (n + 1) s) (m : List Byte) :
    HasBlocks n (chunkDone m s) := by
  obtain ⟨he, hleft⟩ := h.left (by omega)
  refine ⟨chunkDone_BUSY m s, (chunkDone_VALID m s).trans h.built, fun h0 => ?_⟩
  have hexh : (counterIncrement s).EXH = false := by
    rw [Bool.eq_false_iff, ne_eq, counterIncrement_EXH_eq_true he, ← counter_eq_allOnes_iff]
    intro hones
    rw [hones] at hleft
    simp at hleft
    omega
  have hadv := (counterIncrement_exhausts_or_advances s).resolve_left (by simp [hexh])
  exact ⟨(chunkDone_EXH m s).trans hexh, by rw [chunkDone_S]; omega⟩

/-- The unit after chunks one after another. -/
def streamDone : List (List Byte) → State → State
  | [], s => s
  | c :: cs, s => streamDone cs (chunkDone c s)

/-- The counter is as many blocks further as there were chunks (R157). -/
theorem counter_streamDone (cs : List (List Byte)) (s : State) :
    counter (streamDone cs s).S = counter s.S + BitVec.ofNat 64 cs.length := by
  induction cs generalizing s with
  | nil => simp [streamDone]
  | cons c cs ih =>
    rw [streamDone, ih, chunkDone_S, counter_counterIncrement, List.length_cons, Nat.add_comm cs.length, BitVec.ofNat_add,
      BitVec.add_assoc]
    rfl

/-- Chunks use one block each. -/
theorem HasBlocks.streamDone {cs : List (List Byte)} {n : Nat} {s : State} (h : HasBlocks (cs.length + n) s) :
    HasBlocks n (streamDone cs s) := by
  induction cs generalizing s with
  | nil => rwa [List.length_nil, Nat.zero_add] at h
  | cons c cs ih => exact ih (HasBlocks.chunkDone (by rwa [List.length_cons, Nat.add_right_comm] at h) c)

/-- Chunks on a unit with as many blocks left come out XORed with the keystream. -/
theorem transformChunks_eq {cs : List (List Byte)} (hcs : ∀ c ∈ cs, 1 ≤ c.length ∧ c.length ≤ 64) {s : State}
    (h : HasBlocks cs.length s) : transformChunks cs s = some ((xorStream cs s.S).flatten, streamDone cs s) := by
  induction cs generalizing s with
  | nil => rfl
  | cons c cs ih =>
    obtain ⟨⟨h1, h64⟩, hcs⟩ := List.forall_mem_cons.1 hcs
    simp only [transformChunks, transformChunk_eq h.idle h.built (h.left (by simp)).1 h1 h64, ih hcs (h.chunkDone c),
      xorStream, streamDone, List.flatten_cons, chunkDone_S, counterIncrement_S]

/-- `transform` on a unit with as many blocks left as the string has chunks. -/
theorem transform_eq {m : List Byte} {s : State} (h : HasBlocks ((m.length + 63) / 64) s) :
    transform m s = some ((xorStream (chunksOf m) s.S).flatten, streamDone (chunksOf m) s) :=
  transformChunks_eq (blockAligned_chunksOf m).length_of_mem (by rwa [chunksOf_length])

/-- Settles O58: each chunk keeps its length and uses one counter value. -/
theorem transformKeepsLengthAndAdvancesTheCounter : Obligations.TransformKeepsLengthAndAdvancesTheCounter := by
  intro s m hb hv he hbound
  refine ⟨_, _, transform_eq ⟨hb, hv, fun _ => ⟨he, hbound⟩⟩, ?_, ?_⟩
  · rw [xorStream_flatten_length (blockAligned_chunksOf m).length_of_mem, flatten_chunksOf]
  · rw [counter_streamDone, chunksOf_length]

/-- Two runs of chunks one after the other are one run of all of them (R158). -/
theorem transformChunks_append {cs ds : List (List Byte)} {s t u : State} {o₁ o₂ : List Byte}
    (hcs : transformChunks cs s = some (o₁, t)) (hds : transformChunks ds t = some (o₂, u)) :
    transformChunks (cs ++ ds) s = some (o₁ ++ o₂, u) := by
  induction cs generalizing s o₁ with
  | nil =>
    obtain ⟨rfl, rfl⟩ : [] = o₁ ∧ s = t := by simpa [transformChunks] using hcs
    exact hds
  | cons c cs ih =>
    rw [transformChunks] at hcs
    split at hcs
    next => simp at hcs
    next o v hchunk =>
      split at hcs
      next => simp at hcs
      next o' v' hrest =>
        obtain ⟨rfl, rfl⟩ : o ++ o' = o₁ ∧ v' = t := by simpa using hcs
        rw [List.cons_append, transformChunks, hchunk]
        dsimp only
        rw [ih hrest, List.append_assoc]

/-- Settles O59: at a block boundary the chunks of the whole string are those of its parts. -/
theorem transformSplitsAtBlockBoundaries : Obligations.TransformSplitsAtBlockBoundaries := by
  intro s m₁ m₂ hm hb hv he hbound
  have hblocks : HasBlocks ((m₁.length + 63) / 64 + (m₂.length + 63) / 64) s :=
    ⟨hb, hv, fun _ => ⟨he, by omega⟩⟩
  have h₁ := transform_eq (hblocks.mono (Nat.le_add_right _ _))
  rw [← chunksOf_length m₁] at hblocks
  have h₂ := transform_eq hblocks.streamDone
  refine ⟨_, _, _, _, h₁, h₂, ?_⟩
  rw [transform, chunksOf_append hm]
  exact transformChunks_append h₁ h₂

/-! ### The round trip (R156) -/

/-- The cipher state INIT builds (R21, R101, R102). -/
def KeySetup.initialState (k : KeySetup) : Words 16 :=
  initialLayout (selectConstants k.KLEN k.ROM) k.KEY (secondQuadrant k.KLEN k.KEY) k.NONCE

/-- `transform` leaves what INIT reads as it was (R155). -/
theorem streamDone_keySetup (cs : List (List Byte)) (s : State) : (streamDone cs s).keySetup = s.keySetup := by
  induction cs generalizing s with
  | nil => rfl
  | cons c cs ih => exact (ih (chunkDone c s)).trans (chunkDone_keySetup c s)

/-- The counter of a state INIT has built is (0, 0) (R21). -/
theorem counter_initialState (k : KeySetup) : counter k.initialState = 0 := by
  simp [counter, KeySetup.initialState, initialLayout]

/-- INIT and its WAIT on an idle unit with legal lengths: all 2^64 blocks are left (R103, R153). -/
theorem runEdges_init {s : State} (hb : s.BUSY = false) (hk : s.keySetup.KLEN = 16#6 ∨ s.keySetup.KLEN = 32#6)
    (hn : s.keySetup.NLEN = 8#4) :
    ∃ t, runEdges (commandEdges .init) s = .next t ∧ HasBlocks (2 ^ 64) t ∧ t.S = s.keySetup.initialState ∧
      t.keySetup = s.keySetup := by
  have hinit := (completeStep_of_ok (s := startCommand Command.init.word s) (decodeCmd_word .init)).trans
    (exec_init_legal (s := startCommand Command.init.word s) hk hn)
  refine ⟨_, runEdges_command .init hb hinit rfl, ⟨rfl, rfl, fun _ => ⟨rfl, ?_⟩⟩, rfl, rfl⟩
  change (counter s.keySetup.initialState).toNat + 2 ^ 64 ≤ 2 ^ 64
  rw [counter_initialState]
  simp

/-- Settles O60: the second INIT builds the same cipher state, and the second `transform` cuts its input into the output
chunks of the first. -/
theorem transformRoundTrip : Obligations.TransformRoundTrip := by
  intro s m hb hk hn hm
  have hcs := blockAligned_chunksOf m
  obtain ⟨s₁, hinit₁, hblocks₁, hS₁, hset₁⟩ := runEdges_init hb hk hn
  have hc := transform_eq (hblocks₁.mono (n := (m.length + 63) / 64) (by omega))
  rw [hS₁] at hc
  have hset : (streamDone (chunksOf m) s₁).keySetup = s.keySetup := (streamDone_keySetup _ _).trans hset₁
  have hdone : HasBlocks 0 (streamDone (chunksOf m) s₁) :=
    HasBlocks.streamDone (hblocks₁.mono (by rw [chunksOf_length]; omega))
  obtain ⟨s₂, hinit₂, hblocks₂, hS₂, -⟩ := runEdges_init hdone.idle (hset ▸ hk) (hset ▸ hn)
  have hlen := xorStream_flatten_length hcs.length_of_mem s.keySetup.initialState
  rw [flatten_chunksOf] at hlen
  have hback := transform_eq (m := (xorStream (chunksOf m) s.keySetup.initialState).flatten)
    (hblocks₂.mono (by rw [hlen]; omega))
  rw [hS₂, hset, chunksOf_flatten (hcs.xorStream _), xorStream_xorStream hcs.length_of_mem, flatten_chunksOf] at hback
  exact ⟨s₁, _, _, s₂, _, hinit₁, hc, hinit₂, hback⟩

end Sys2Proof.Machine
end

section
/-! SUPPORT. The statements of the exceptions (60_exceptions.md): errors and their priority (R173, R179), accesses while
BUSY = 1 (R177, R178), the engine's two states (R174) and the completion edge (R176, R181). -/

namespace Sys2Proof.Machine

/-! ### Accesses while BUSY = 1 (R177, R178) -/

/-- Settles O37: the write is `dropWrite`. -/
theorem busyWriteIsDropped : Obligations.BusyWriteIsDropped := by
  intro s a v hb
  rw [exec, execWr, if_pos hb, dropWrite]

/-- While BUSY = 1 a read of CMD or of a reserved word returns 0 and draws nothing (R178). -/
theorem busyReadReg_zero {r : Reg} (hr : r = .cmd ∨ r = .reserved) (s : State) : busyReadReg r s = observe 0 s := by
  obtain rfl | rfl := hr <;> rfl

/-- The words whose value is free while BUSY = 1: all but CMD, the reserved ones and STATUS (R50, R178). -/
theorem regOf_free_words : ∀ a : BitVec 7,
    (a = 0 ∨ (3 ≤ a.toNat ∧ a.toNat ≤ 5) ∨ (8 ≤ a.toNat ∧ a.toNat ≤ 17) ∨ (20 ≤ a.toNat ∧ a.toNat ≤ 23) ∨
      (32 ≤ a.toNat ∧ a.toNat ≤ 79)) →
    regOf a ≠ .cmd ∧ regOf a ≠ .reserved ∧ regOf a ≠ .status := by
  decide

/-- The bits of STATUS that a read while BUSY = 1 is bound to, whatever value is drawn (R178). -/
theorem busyStatusWord_layout (w : Bool) (f : Word) :
    (busyStatusWord w f).getLsbD 0 = true ∧ (busyStatusWord w f).getLsbD 3 = w ∧
    (busyStatusWord w f).extractLsb' 5 3 = 0 ∧ (busyStatusWord w f).extractLsb' 12 20 = 0 := by
  refine ⟨by simp [busyStatusWord], by simp [busyStatusWord], ?_, ?_⟩
  · ext i hi
    interval_cases i <;> simp [busyStatusWord]
  · ext i hi
    interval_cases i <;> simp [busyStatusWord]

/-- Settles O39: the read is `busyReadReg` on the register the map names. -/
theorem busyReadIsAFreshDraw : Obligations.BusyReadIsAFreshDraw := by
  intro s a hb
  rw [exec_rd_busy a hb]
  refine ⟨?_, fun ha => ?_, fun ha => ?_⟩
  · rintro rfl; rfl
  · have hr : regOf a = .cmd ∨ regOf a = .reserved := ha.imp (regOf_eq_cmd a).2 (regOf_reserved_words a)
    rw [busyReadReg_zero hr, observe]
  · obtain ⟨hcmd, hres, hstatus⟩ := regOf_free_words a ha
    rw [busyReadReg_free s hcmd hres hstatus]

/-- Settles O38: the word the host has read more is the one `busyReadReg` returns. -/
theorem busyReadBindsStatusCmdAndReservedWords : Obligations.BusyReadBindsStatusCmdAndReservedWords := by
  intro s a hb
  obtain ⟨v, n, h⟩ := busyReadReg_frame (regOf a) s
  have hreads : (busyReadReg (regOf a) s).reads = s.reads ++ [v] := congrArg State.reads h
  have hzero (hr : regOf a = .cmd ∨ regOf a = .reserved) : v = 0 := by
    rw [busyReadReg_zero hr, observe_reads] at hreads
    exact (List.singleton_inj.1 (List.append_cancel_left hreads)).symm
  refine ⟨v, n, by rw [exec_rd_busy a hb, h], fun ha => ?_, fun ha => hzero (.inl ((regOf_eq_cmd a).2 ha)),
    fun ha => hzero (.inr (regOf_reserved_words a ha))⟩
  obtain rfl : busyStatusWord s.WERR (Config.busyRead s.draws) = v := by
    simpa [(regOf_eq_status a).2 ha, busyReadReg] using hreads
  exact busyStatusWord_layout _ _

/-! ### Errors (R173, R179) -/

/-- A completion leaves the engine idle (R176). -/
theorem Completion.idle {s t : State} (h : Completion s t) : t.BUSY = false := by
  cases h with
  | _ => subst_vars; rfl

/-- A completion with a code other than 0 has written the code and nothing else (R173). -/
theorem Completion.eq_finish_of_error {s t : State} (h : Completion s t) (he : t.ERR ≠ 0) : t = finish t.ERR s := by
  cases h with
  | reports c hc ht => subst ht; rfl
  | _ => subst_vars; exact absurd rfl he

/-- Settles O32: of all completions only those that report a code and do nothing else have a code other than 0. -/
theorem errorsArePrecise : Obligations.ErrorsArePrecise := by
  intro s
  obtain ⟨t, ht⟩ := completeStep_next s
  have hc := completion_of_completeStep ht
  exact ⟨t, ht, hc.idle, hc.eq_finish_of_error⟩

/-- The result code of INIT (R103, R179). -/
theorem exec_init_ERR {s t : State} (h : exec .init s = .next t) :
    t.ERR = if s.KLEN ≠ 16#6 ∧ s.KLEN ≠ 32#6 then 1 else if s.NLEN ≠ 8#4 then 2 else 0 := by
  obtain ⟨h16, h32, rfl⟩ | ⟨hk, hn, rfl⟩ | ⟨hk, hn, rfl⟩ := exec_init_cases h
  · rw [if_pos ⟨h16, h32⟩, finish_ERR]
  · rw [if_neg (by tauto), if_pos hn, finish_ERR]
  · rw [if_neg (by tauto), if_neg (not_not_intro hn), finish_ERR]

/-- The result code of HASH (R136, R179). -/
theorem exec_hash_ERR {s t : State} (h : exec .hash s = .next t) :
    t.ERR = if s.VALID = false then 3 else if s.EXH = true then 5 else 0 := by
  obtain ⟨hv, rfl⟩ | ⟨hv, he, rfl⟩ | ⟨hv, he, x, r, rfl⟩ := exec_hash_cases h
  · simp [hv]
  · simp [hv, he]
  · simp [hv, he]

/-- The result code of BLOCK (R150, R179). -/
theorem exec_block_ERR {s t : State} (h : exec .block s = .next t) :
    t.ERR = if s.VALID = false then 3 else if s.EXH = true then 5 else if 64 < s.LEN.toNat then 4 else 0 := by
  obtain ⟨hv, rfl⟩ | ⟨hv, he, rfl⟩ | ⟨hv, he, hl, rfl⟩ | ⟨hv, he, hl, rfl⟩ | ⟨hv, he, -, hl, x, r, rfl⟩ :=
    exec_block_cases h
  · simp [hv]
  · simp [hv, he]
  · simp [hv, he, hl]
  · simp [hv, he, hl]
  · simp [hv, he, hl]

/-- Settles O33: the completion is the pending command, with its own code, or that of an illegal word. -/
theorem errorPriority : Obligations.ErrorPriority := by
  intro s
  obtain ⟨t, ht⟩ := completeStep_next s
  have hexec {i : Instr} (hd : decodeCmd s.PEND = .ok i) : exec i s = .next t := (completeStep_of_ok hd).symm.trans ht
  refine ⟨t, ht, fun hd => exec_init_ERR (hexec hd), fun hd => exec_hash_ERR (hexec hd),
    fun hd => exec_block_ERR (hexec hd), fun hill => ?_⟩
  have hd := (decodeCmd_eq_illegal_iff s.PEND).2 ((illegal_fields_iff s.PEND).1 hill)
  obtain rfl := Host.Outcome.next.inj ((completeStep_of_error hd).symm.trans ht)
  rfl

/-! ### The completion edge (R176, R181) -/

/-- While BUSY = 1 a quiet edge, the next input or the one that stands for no input, is the completion step (R176). -/
theorem step_quiet_completes {s : State} (hb : s.BUSY = true) :
    (s.inputs = [] → step s = completeStep s) ∧
    (∀ rest, s.inputs = .edge Edge.quiet :: rest → step s = completeStep { s with inputs := rest }) :=
  ⟨fun hin => by rw [step_of_no_input hin, clockEdge_quiet, if_pos hb],
    fun rest hin => by rw [step_of_edge hin, clockEdge_quiet, if_pos hb]⟩

/-- Settles O7: the step is the completion step, which looks at PEND. -/
theorem stepRunsThePendingCommand : Obligations.StepRunsThePendingCommand := by
  intro s hb
  obtain ⟨hnone, hquiet⟩ := step_quiet_completes hb
  refine ⟨fun i hd => ⟨fun hin => ?_, fun rest hin => ?_⟩, fun e hd => ⟨fun hin => ?_, fun rest hin => ?_⟩⟩
  · exact (hnone hin).trans (completeStep_of_ok hd)
  · exact (hquiet rest hin).trans (completeStep_of_ok hd)
  · exact (hnone hin).trans (completeStep_of_error hd)
  · exact (hquiet rest hin).trans (completeStep_of_error hd)

/-- The one case in which a completion and a transaction at one edge differ on a register (log 7). -/
theorem clearMeetsWrite_iff (x : Txn) (s : State) :
    clearMeetsWrite x s = true ↔ decodeCmd s.PEND = .ok .clear ∧ ∃ a d, decodeBus x.header x.data = .wr a d := by
  unfold clearMeetsWrite
  split
  next a d hd hw => exact iff_of_true rfl ⟨hd, a, d, hw⟩
  next hne => exact iff_of_false Bool.false_ne_true fun ⟨hd, a, d, hw⟩ => hne a d hd hw

/-- Settles O9: the transaction is one made while busy and keeps PEND, whose word then completes; only CLEAR and a write
settle WERR anew. -/
theorem transactionAtTheCompletionEdge : Obligations.TransactionAtTheCompletionEdge := by
  intro s x rest hin hb
  obtain ⟨u, hu⟩ := exec_next (decodeBus x.header x.data) { s with inputs := rest }
  obtain ⟨v, hv⟩ := completeStep_next u
  have hstep := (step_of_edge hin).trans (clockEdge_bus_completing rfl rfl rfl hb hu hv)
  have hrace := clearMeetsWrite_iff x { s with inputs := rest }
  have hbusy := exec_bus_busy (s := { s with inputs := rest }) hb hu
  have hpend : u.PEND = s.PEND := by obtain ⟨_, _, -, rfl⟩ | ⟨_, -, _, _, rfl⟩ := hbusy <;> rfl
  refine ⟨u, v, hu, hv, (completion_of_completeStep hv).idle, fun i hd => ?_, fun e hd => ?_, fun a d hw => ?_,
    fun a hr => ?_, fun hno => ?_, fun hyes => ?_⟩
  · exact (completeStep_of_ok (hpend ▸ hd)).symm.trans hv
  · exact Host.Outcome.next.inj (hv.symm.trans (completeStep_of_error (hpend ▸ hd)))
  · obtain ⟨_, _, -, h⟩ | ⟨_, hr, -⟩ := hbusy
    · exact h
    · exact absurd (hw.symm.trans hr) nofun
  · obtain ⟨_, _, hw, -⟩ | ⟨_, -, h⟩ := hbusy
    · exact absurd (hr.symm.trans hw) nofun
    · exact h
  · rw [hstep, if_neg]
    intro hm
    obtain ⟨hd, a, d, hw⟩ := hrace.1 hm
    obtain h | ⟨b, hr⟩ := hno
    · exact h hd
    · exact absurd (hw.symm.trans hr) nofun
  · rw [hstep, if_pos (hrace.2 hyes)]
    exact ⟨_, _, rfl⟩

/-! ### The engine's two states (R174) -/

section Edge

variable {s : State} {e : Edge} (he : nextEvent s = .edge e)
include he

/-- A step on a clock edge holds a completion exactly when the edge and BUSY say so. -/
theorem completesSome_iff : s.CompletesSome ↔ e.rstN = true ∧ e.done = true ∧ s.BUSY = true := by
  simp [State.CompletesSome, he]

/-- A step on a clock edge is a reset exactly when the edge's reset pin is low. -/
theorem resets_iff : s.Resets ↔ e.rstN = false := by
  simp [State.Resets, he]

/-- In a step on a clock edge the host writes exactly what is on the pins. -/
theorem hostWrites_iff (a : BitVec 7) (v : Word) :
    s.HostWrites a v ↔ e.rstN = true ∧ ∃ x, e.bus = some x ∧ decodeBus x.header x.data = .wr a v := by
  simp [State.HostWrites, he]

end Edge

/-- A step that keeps BUSY moves the engine neither way. -/
theorem busy_iff_of_kept {s t : State} (hk : t.BUSY = s.BUSY) (hw : s.BUSY = false → ∀ v, ¬ s.HostWrites 1 v)
    (hc : ¬ s.CompletesSome) (hr : ¬ s.Resets) :
    (s.BUSY = false → (t.BUSY = true ↔ ∃ v, s.HostWrites 1 v ∧ t.PEND = v)) ∧
    (s.BUSY = true → (t.BUSY = false ↔ s.CompletesSome ∨ s.Resets)) :=
  ⟨fun hB => iff_of_false (by simp [hk, hB]) fun ⟨v, hv, _⟩ => hw hB v hv,
    fun hB => iff_of_false (by simp [hk, hB]) (not_or_intro hc hr)⟩

/-- Settles O45: of the edges without reset and completion only an accepted write to CMD does not keep BUSY. -/
theorem busyChangesOnlyByIssueCompletionOrReset : Obligations.BusyChangesOnlyByIssueCompletionOrReset := by
  intro s t h
  cases stepIs_of_step h with
  | reset e he hr ht =>
    have hw (v : Word) : ¬ s.HostWrites 1 v := by simp [hostWrites_iff he, hr]
    subst ht
    exact ⟨fun _ => iff_of_false Bool.false_ne_true fun ⟨v, hv, _⟩ => hw v hv,
      fun _ => iff_of_true rfl (.inr ((resets_iff he).2 hr))⟩
  | idle e he hr hb hd ht =>
    refine busy_iff_of_kept (ht ▸ rfl) (fun _ v => ?_) ?_ ?_
    · simp [hostWrites_iff he, hb]
    · simpa [completesSome_iff he, hr] using hd
    · simp [resets_iff he, hr]
  | busyWrite e x a d he hr hx hw hB hd ht =>
    exact busy_iff_of_kept (ht ▸ rfl) (by simp [hB]) (by simp [completesSome_iff he, hd]) (by simp [resets_iff he, hr])
  | busyRead e x a w n he hr hx hw hB hd ht =>
    exact busy_iff_of_kept (ht ▸ rfl) (by simp [hB]) (by simp [completesSome_iff he, hd]) (by simp [resets_iff he, hr])
  | idleWrite e x a d he hr hx hw hB ht =>
    have hwrites (v : Word) : s.HostWrites 1 v ↔ a = 1 ∧ d = v := by simp [hostWrites_iff he, hr, hx, hw]
    by_cases ha : a = 1
    · subst ha ht
      exact ⟨fun _ => iff_of_true rfl ⟨d, (hwrites d).2 ⟨rfl, rfl⟩, rfl⟩, fun hB' => by simp [hB] at hB'⟩
    · have hcmd : regOf a ≠ .cmd := fun h => ha ((regOf_eq_cmd a).1 h)
      exact busy_iff_of_kept (ht ▸ writeReg_BUSY hcmd d _) (fun _ v hv => ha ((hwrites v).1 hv).1)
        (by simp [completesSome_iff he, hB]) (by simp [resets_iff he, hr])
  | idleRead e x a w he hr hx hw hB ht =>
    exact busy_iff_of_kept (ht ▸ rfl) (fun _ v => by simp [hostWrites_iff he, hx, hw]) (by simp [completesSome_iff he, hB])
      (by simp [resets_iff he, hr])
  | completion e u v w w' rs n n' he hr hB hd hu hw hv ht hw' =>
    subst ht
    exact ⟨fun hB' => by simp [hB] at hB', fun _ => iff_of_true (completion_of_completeStep hv).idle
      (.inl ((completesSome_iff he).2 ⟨hr, hd, hB⟩))⟩

end Sys2Proof.Machine
end

section
/-! SUPPORT. The statements of reset and hazards (70_reset_and_hazards.md): the reset edge (R200), what the commands but INIT
do not read (R207), and the boot sequence (R202). -/

namespace Sys2Proof.Machine

/-! ### The reset edge (R200) -/

theorem clockEdge_of_rstN_low {e : Edge} (s : State) (hr : e.rstN = false) :
    clockEdge e s = .next (resetEdge e.bus s) := if_pos hr

theorem resetEdge_reads (bus : Option Txn) (s : State) :
    (resetEdge bus s).reads = s.reads ++ readsInReset bus := rfl

/-- A read during reset returns 0. -/
theorem readsInReset_of_read {x : Txn} {a : BitVec 7} (h : decodeBus x.header x.data = .rd a) :
    readsInReset (some x) = [0] := by
  simp only [readsInReset, h]

/-- A write during reset returns nothing. -/
theorem readsInReset_of_write {x : Txn} {a : BitVec 7} {d : Word} (h : decodeBus x.header x.data = .wr a d) :
    readsInReset (some x) = [] := by
  simp only [readsInReset, h]

/-- Settles O10: the edge leaves the registers of `State.reset`, and the host's reads grow by what a read during reset
returns. -/
theorem resetEdgeGivesTheResetValues : Obligations.ResetEdgeGivesTheResetValues := by
  intro s bus done rest hin
  obtain ⟨hS, hKEY, hNONCE, hDIN, hDOUT, hQR, hctrl, hdlen, hstatus⟩ := resetStateHoldsTheResetValues
  refine ⟨resetEdge bus { s with inputs := rest }, (step_of_edge hin).trans (clockEdge_of_rstN_low _ rfl),
    hS, hKEY, hNONCE, hDIN, hDOUT, hQR, hctrl, hdlen, hstatus, rfl, rfl, rfl, rfl, ?_, ?_, ?_⟩
  · rintro x a rfl h
    rw [resetEdge_reads, readsInReset_of_read h]
  · rintro x a d rfl h
    rw [resetEdge_reads, readsInReset_of_write h, List.append_nil]
  · rintro rfl
    exact List.append_nil s.reads

/-! ### What NOP, BLOCK, HASH and QR do not read (R207) -/

/-- `s` with other values in the registers the host writes for INIT: KEY, NONCE and CTRL (R28, R29, R33). -/
def State.withInitRegisters (s : State) (k : Words 8) (n : Words 2) (kl : BitVec 6) (nl : BitVec 4) : State :=
  { s with KEY := k, NONCE := n, KLEN := kl, NLEN := nl }

/-- Other values in the registers for INIT change nothing in the instruction's result but these registers. -/
def IgnoresInitRegisters (i : Instr) (s : State) : Prop :=
  ∀ k n kl nl, ∃ t, exec i s = .next t ∧ exec i (s.withInitRegisters k n kl nl) = .next (t.withInitRegisters k n kl nl)

/-- The state after a HASH on a usable state. -/
def hashDone (s : State) : State :=
  finish 0 { s with
    DOUT := coreBlock s.S, X := Config.hiddenX s.draws, RIDX := Config.hiddenRIDX s.draws, draws := s.draws + 1 }

/-- HASH on a usable state, with the values drawn for the hidden registers named (R136; log 3). -/
theorem exec_hash_usable {s : State} (hv : s.VALID = true) (he : s.EXH = false) :
    exec .hash s = .next (hashDone s) := by
  obtain ⟨hfinal, hrun⟩ := sequencerComputesTheCore s
  rw [exec, execHash, if_neg (by simp [hv]), if_neg (by simp [he])]
  dsimp only
  rw [hfinal, hrun]
  rfl

/-- HASH chooses by VALID and EXH, and its block is the core of `S`. -/
theorem hash_ignoresInitRegisters (s : State) : IgnoresInitRegisters .hash s := by
  intro k n kl nl
  cases hv : s.VALID with
  | false =>
    exact ⟨_, (exec_hash_block_notInitialised hv).1,
      (exec_hash_block_notInitialised (s := s.withInitRegisters k n kl nl) hv).1⟩
  | true =>
    cases he : s.EXH with
    | true =>
      exact ⟨_, (exec_hash_block_exhausted hv he).1,
        (exec_hash_block_exhausted (s := s.withInitRegisters k n kl nl) hv he).1⟩
    | false => exact ⟨_, exec_hash_usable hv he, exec_hash_usable (s := s.withInitRegisters k n kl nl) hv he⟩

/-- BLOCK chooses by VALID, EXH and LEN, and its block is the core of `S`. -/
theorem block_ignoresInitRegisters (s : State) : IgnoresInitRegisters .block s := by
  intro k n kl nl
  cases hv : s.VALID with
  | false =>
    exact ⟨_, (exec_hash_block_notInitialised hv).2,
      (exec_hash_block_notInitialised (s := s.withInitRegisters k n kl nl) hv).2⟩
  | true =>
    cases he : s.EXH with
    | true =>
      exact ⟨_, (exec_hash_block_exhausted hv he).2,
        (exec_hash_block_exhausted (s := s.withInitRegisters k n kl nl) hv he).2⟩
    | false =>
      obtain hl | hl | ⟨h1, h64⟩ : 64 < s.LEN.toNat ∨ s.LEN.toNat = 0 ∨ 1 ≤ s.LEN.toNat ∧ s.LEN.toNat ≤ 64 := by omega
      · exact ⟨_, exec_block_badDataLength hv he hl,
          exec_block_badDataLength (s := s.withInitRegisters k n kl nl) hv he hl⟩
      · exact ⟨_, exec_block_empty hv he hl, exec_block_empty (s := s.withInitRegisters k n kl nl) hv he hl⟩
      · exact ⟨_, exec_block_chunk hv he h1 h64,
          exec_block_chunk (s := s.withInitRegisters k n kl nl) hv he h1 h64⟩

/-- Settles O16: NOP and QR compute with the registers carried along, HASH and BLOCK choose by other fields. -/
theorem onlyInitReadsKeyNonceAndCtrl : Obligations.OnlyInitReadsKeyNonceAndCtrl := by
  intro i hi s k n kl nl
  simp only [List.mem_cons, List.not_mem_nil, or_false] at hi
  rcases hi with rfl | rfl | rfl | rfl
  · exact ⟨_, rfl, rfl⟩
  · exact block_ignoresInitRegisters s k n kl nl
  · exact hash_ignoresInitRegisters s k n kl nl
  · exact ⟨_, rfl, rfl⟩

/-! ### The boot sequence (R202) -/

/-- Writes of some words of KEY, each word once: those words hold the values, the other words are kept (R54). -/
theorem runEdges_writeKey {ι : Type} {p : ι → Fin 8} (hp : Function.Injective p) (v : ι → Word) {l : List ι}
    (hl : l.Nodup) {s : State} (hb : s.BUSY = false) :
    ∃ K : Words 8, runEdges ((l.map fun i => hostWr (.key (p i)) (v i)).map busEdge) s = .next { s with KEY := K } ∧
      (∀ i ∈ l, K[p i] = v i) ∧ ∀ q : Fin 8, (∀ i ∈ l, p i ≠ q) → K[q] = s.KEY[q] := by
  induction l generalizing s with
  | nil => exact ⟨s.KEY, rfl, by simp, fun _ _ => rfl⟩
  | cons i l ih =>
    obtain ⟨hi, hl⟩ := List.nodup_cons.1 hl
    obtain ⟨K, hrun, hset, hkeep⟩ := ih hl (s := { s with KEY := s.KEY.set (p i) (v i) }) hb
    refine ⟨K, ?_, ?_, fun q hq => ?_⟩
    · rw [List.map_cons, List.map_cons, runEdges_cons_next (clockEdge_hostWr _ _ hb)]
      exact hrun
    · have hpi : ∀ j ∈ l, p j ≠ p i := fun j hj h => hi (hp h ▸ hj)
      exact List.forall_mem_cons.2 ⟨by simp [hkeep (p i) hpi], hset⟩
    · obtain ⟨hqi, hql⟩ := List.forall_mem_cons.1 hq
      have hne : (p i).val ≠ q.val := fun h => hqi (Fin.ext h)
      simp [hkeep q hql, Vector.getElem_set_ne _ _ hne]

/-- Words that agree from word `a` and word `b` on, for `c` words, agree there in their bytes (R56). -/
theorem byteAt_eq_of_words {m n : Nat} {V : Words m} {W : Words n} (a b c : Nat) (ha : a + c ≤ m) (hb : b + c ≤ n)
    (h : ∀ i (hi : i < c), V[a + i] = W[b + i]) {k : Nat} (hk : k < 4 * c) :
    byteAt V (4 * a + k) = byteAt W (4 * b + k) := by
  obtain ⟨i, j, hj, rfl⟩ : ∃ i j, j < 4 ∧ k = 4 * i + j := ⟨k / 4, k % 4, by omega, by omega⟩
  have hi : i < c := by omega
  rw [← Nat.add_assoc, ← Nat.add_assoc, ← Nat.mul_add, ← Nat.mul_add, byteAt_of_word V (by omega) hj,
    byteAt_of_word W (by omega) hj, h i hi]

/-- The key writes of the boot sequence put the key's bytes into KEY, little-endian (R56, R79). -/
theorem runEdges_bootKey {key : List Byte} (hlen : key.length = 16 ∨ key.length = 32) {s : State}
    (hb : s.BUSY = false) :
    ∃ K : Words 8, runEdges ((if key.length = 16 then (Pseudo.ldkey16 (packWords 4 key)).expand
        else (Pseudo.ldkey (packWords 8 key)).expand).map busEdge) s = .next { s with KEY := K } ∧
      ∀ k, k < key.length → byteAt K k = key.getD k 0 := by
  rcases hlen with h16 | h32
  · obtain ⟨K, hrun, hset, -⟩ := runEdges_writeKey (p := Fin.castLE (by decide : 4 ≤ 8)) (Fin.castLE_injective _)
      (fun i => (packWords 4 key)[i]) (List.nodup_finRange 4) hb
    refine ⟨K, by rw [if_pos h16]; exact hrun, fun k hk => ?_⟩
    rw [h16] at hk
    rw [← byteAt_packWords (n := 4) key hk]
    simpa using byteAt_eq_of_words (V := K) 0 0 4 (by decide) (by decide)
      (fun i hi => by simpa using hset ⟨i, hi⟩ (List.mem_finRange _)) hk
  · obtain ⟨K, hrun, hset, -⟩ := runEdges_writeKey (p := id) Function.injective_id
      (fun i => (packWords 8 key)[i]) (List.nodup_finRange 8) hb
    refine ⟨K, by rw [if_neg (by omega)]; exact hrun, fun k hk => ?_⟩
    have hK : K = packWords 8 key := Vector.ext fun i hi => hset ⟨i, hi⟩ (List.mem_finRange _)
    rw [hK, byteAt_packWords key (by omega)]

/-- LDNONCE (R79) loads both words of NONCE. -/
theorem runEdges_ldnonce (n : Words 2) {s : State} (hb : s.BUSY = false) :
    runEdges ((Pseudo.ldnonce n).expand.map busEdge) s = .next { s with NONCE := n } := by
  have hn : (s.NONCE.set 0 n[0]).set 1 n[1] = n := by
    apply Vector.ext
    intro i hi
    interval_cases i <;> simp
  rw [Pseudo.expand, List.map_cons, List.map_singleton, runEdges_cons_next (clockEdge_hostWr _ _ hb),
    runEdges_cons_next (clockEdge_hostWr (.nonce 1) n[1] (s := writeReg (.nonce 0) n[0] s) hb), runEdges_nil]
  change Host.Outcome.next { s with NONCE := (s.NONCE.set 0 n[0]).set 1 n[1] } = _
  rw [hn]

/-- SETLEN (R79) writes CTRL. -/
theorem runEdges_setlen (klen nlen : Word) {s : State} (hb : s.BUSY = false) :
    runEdges ((Pseudo.setlen klen nlen).expand.map busEdge) s = .next (writeCtrl ((nlen <<< 8) ||| klen) s) := by
  rw [Pseudo.expand, List.map_singleton, runEdges_cons_next (clockEdge_hostWr _ _ hb), runEdges_nil]
  rfl

/-- CTRL with a legal key length and a nonce length of 8 in it (R33). -/
theorem ctrl_fields_of_lengths {n : Nat} (hn : n = 16 ∨ n = 32) :
    ((8#32 <<< 8) ||| BitVec.ofNat 32 n).extractLsb' 0 6 = BitVec.ofNat 6 n ∧
    ((8#32 <<< 8) ||| BitVec.ofNat 32 n).extractLsb' 8 4 = 8#4 := by
  rcases hn with rfl | rfl <;> decide

/-- The boot sequence up to INIT: an idle unit with legal lengths and the bytes of the key and the nonce (R202, R56). -/
theorem runEdges_bootEdges {key nonce : List Byte} (hkey : key.length = 16 ∨ key.length = 32) (hnonce : nonce.length = 8)
    (s : State) :
    ∃ u, runEdges (bootEdges key nonce) s = runEdges (commandEdges .init) u ∧ u.BUSY = false ∧
      u.KLEN = BitVec.ofNat 6 key.length ∧ u.NLEN = 8#4 ∧ u.NONCE = packWords 2 nonce ∧
      ∀ k, k < key.length → byteAt u.KEY k = key.getD k 0 := by
  obtain ⟨hKLEN, hNLEN⟩ := ctrl_fields_of_lengths hkey
  have hreset : runEdges [Edge.reset] s = .next (resetEdge none s) := rfl
  have hctrl := runEdges_setlen (BitVec.ofNat 32 key.length) 8#32 (s := resetEdge none s) rfl
  generalize (8#32 <<< 8) ||| BitVec.ofNat 32 key.length = v at hctrl hKLEN hNLEN
  obtain ⟨K, hK, hbytes⟩ := runEdges_bootKey hkey (s := writeCtrl v (resetEdge none s)) rfl
  have hN := runEdges_ldnonce (packWords 2 nonce) (s := { writeCtrl v (resetEdge none s) with KEY := K }) rfl
  refine ⟨{ writeCtrl v (resetEdge none s) with KEY := K, NONCE := packWords 2 nonce }, ?_,
    rfl, hKLEN, hNLEN, rfl, hbytes⟩
  rw [bootEdges, hnonce, List.map_append, List.map_append, List.append_assoc, List.append_assoc, List.append_assoc,
    runEdges_append_next hreset, runEdges_append_next hctrl, runEdges_append_next hK, runEdges_append_next hN]

/-- INIT and its WAIT on an idle unit with legal lengths: the flags and the cipher state it leaves (R103). -/
theorem runEdges_init_flags {s : State} (hb : s.BUSY = false) (hk : s.KLEN = 16#6 ∨ s.KLEN = 32#6)
    (hn : s.NLEN = 8#4) :
    ∃ t, runEdges (commandEdges .init) s = .next t ∧ t.BUSY = false ∧ t.VALID = true ∧ t.EXH = false ∧ t.ERR = 0 ∧
      t.KSEL = decide (s.KLEN = 16#6) ∧ t.S = s.keySetup.initialState ∧ t.Inv := by
  have hinit := (completeStep_of_ok (s := startCommand Command.init.word s) (decodeCmd_word .init)).trans
    (exec_init_legal (s := startCommand Command.init.word s) hk hn)
  have hinv := inv_builds (s := startCommand Command.init.word s) hk
  refine ⟨_, runEdges_command .init hb hinit rfl, rfl, rfl, rfl, rfl, rfl, rfl, CipherKept.inv ?_ hinv⟩
  exact ⟨rfl, rfl, rfl, rfl, rfl, rfl⟩

section Layout

variable (c : KeySetup) {k : Nat}

/-- The first key quadrant is `KEY[0..3]` (R21). -/
theorem KeySetup.byteAt_firstQuadrant (hk : k < 16) : byteAt c.initialState (4 + k) = byteAt c.KEY k := by
  simpa using byteAt_eq_of_words (V := c.initialState) (W := c.KEY) 1 0 4 (by decide) (by decide)
    (fun i hi => by interval_cases i <;> rfl) hk

theorem KeySetup.byteAt_nonce (hk : k < 8) : byteAt c.initialState (24 + k) = byteAt c.NONCE k := by
  simpa using byteAt_eq_of_words (V := c.initialState) (W := c.NONCE) 6 0 2 (by decide) (by decide)
    (fun i hi => by interval_cases i <;> rfl) hk

/-- With a 16-byte key the second quadrant is `KEY[0..3]` again (R102). -/
theorem KeySetup.byteAt_secondQuadrant_short (h : c.KLEN = 16#6) (hk : k < 16) :
    byteAt c.initialState (44 + k) = byteAt c.KEY k := by
  simpa using byteAt_eq_of_words (V := c.initialState) (W := c.KEY) 11 0 4 (by decide) (by decide)
    (fun i hi => by interval_cases i <;> simp [KeySetup.initialState, initialLayout, secondQuadrant, h]) hk

/-- With a 32-byte key the second quadrant is `KEY[4..7]` (R102). -/
theorem KeySetup.byteAt_secondQuadrant_long (h : c.KLEN = 32#6) (hk : k < 16) :
    byteAt c.initialState (44 + k) = byteAt c.KEY (16 + k) :=
  byteAt_eq_of_words (V := c.initialState) (W := c.KEY) 11 4 4 (by decide) (by decide)
    (fun i hi => by interval_cases i <;> simp [KeySetup.initialState, initialLayout, secondQuadrant, h]) hk

end Layout

/-- Settles O56: INIT lays out the words the boot sequence has loaded, and the loaded words hold the bytes. -/
theorem bootSequenceBuildsTheState : Obligations.BootSequenceBuildsTheState := by
  intro s key nonce hkey hnonce
  obtain ⟨u, hboot, hidle, hKLEN, hNLEN, hNONCE, hKEY⟩ := runEdges_bootEdges hkey hnonce s
  have hlegal : u.KLEN = 16#6 ∨ u.KLEN = 32#6 := hkey.imp (fun h => by rw [hKLEN, h]) (fun h => by rw [hKLEN, h])
  obtain ⟨t, hinit, hBUSY, hVALID, hEXH, hERR, hKSEL, hS, hinv⟩ := runEdges_init_flags hidle hlegal hNLEN
  refine ⟨t, hboot.trans hinit, hBUSY, hVALID, hEXH, hERR, hS ▸ counter_initialState u.keySetup, ?_, fun k hk => ?_,
    fun k hk => ?_, fun k hk => ?_, hinv.constants hVALID⟩
  · rw [hKSEL, hKLEN]
    rcases hkey with h | h <;> rw [h] <;> decide
  · rw [hS, KeySetup.byteAt_firstQuadrant _ hk]
    exact hKEY k (by omega)
  · rw [hS]
    rcases hkey with h | h
    · rw [if_pos h, KeySetup.byteAt_secondQuadrant_short _ (by rw [← h]; exact hKLEN) hk]
      exact hKEY k (by omega)
    · rw [if_neg (by omega), KeySetup.byteAt_secondQuadrant_long _ (by rw [← h]; exact hKLEN) hk]
      exact hKEY (16 + k) (by omega)
  · rw [hS, KeySetup.byteAt_nonce _ hk, ← byteAt_packWords (n := 2) nonce hk, ← hNONCE]
    rfl

end Sys2Proof.Machine
end
